-- ==== Sys2Proof/Word.lean ====
section
/-! DEFINITION. The words of the block: every value of the spec is unsigned (R7), bit 0 the least significant (R6). -/

namespace Sys2Proof

/-- `u8`: a frame, a payload, a command or character code (R7). -/
abbrev Byte := BitVec 8

/-- `u4`: half a byte, what one enable pulse latches (R7, glossary). -/
abbrev Nibble := BitVec 4

/-- `u7`: an I2C slave address (R36). -/
abbrev Addr7 := BitVec 7

/-- `u16`: a request word (R54). -/
abbrev ReqWord := BitVec 16

end Sys2Proof
end

