-- ==== Sys2Proof/Config.lean ====
section
/-! DEFINITION. The implementation parameters (R5), and the free values: what the spec leaves open, with no body. -/

namespace Sys2Proof

/-- `P_GROUP`: how the four frames of a byte are cut into transactions (R63). -/
inductive Grouping where
  | source
  | perNibble
  | perByteOp
  | perFrame
  deriving DecidableEq, Repr

/-- The configuration, fixed when the block is built (R5, R16). A field's default is the value of R5. -/
structure Config where
  /-- `P_ADDR7`: the expander's I2C slave address (fixed). -/
  addr7 : Addr7 := 0x27#7
  /-- `P_SCL_HZ`: the bus clock (fixed); only timing reads it. -/
  sclHz : Nat := 100000
  /-- `P_POS_RS` (decided, D3). -/
  posRs : Fin 4 := 0
  /-- `P_POS_RW` (decided, D3). -/
  posRw : Fin 4 := 1
  /-- `P_POS_EN` (decided, D3). -/
  posEn : Fin 4 := 2
  /-- `P_POS_BL` (decided, D3). -/
  posBl : Fin 4 := 3
  /-- `P_BL`: the backlight level in every frame (decided, D4). -/
  bl : Bool := true
  /-- `P_RW_W`: the level of the read/write line that means write (decided, D5). -/
  rwW : Bool := false
  /-- `ROW0_BASE` (fixed). -/
  row0Base : Byte := 0x80#8
  /-- `ROW1_BASE` (fixed). -/
  row1Base : Byte := 0xC0#8
  /-- `T_POWER_US`: the wait at the start of INIT. -/
  tPowerUs : Nat := 50000
  /-- `T_G1_US`: the wait after the first 0x03 (decided, D8). -/
  tG1Us : Nat := 5000
  /-- `T_G2_US`: the wait after the second 0x03 (decided, D8). -/
  tG2Us : Nat := 1000
  /-- `T_CLR_US`: the wait after clear-display. -/
  tClrUs : Nat := 5000
  /-- `P_GROUP` (decided, D6). -/
  group : Grouping := .source
  /-- `P_COLS`: the physical width; OPEN (D29), so it has no default. Only host duties read it (R93, R99). -/
  cols : Nat
  /-- `P_ROWS` (fixed). -/
  rows : Nat := 2
  deriving DecidableEq, Repr

/-- The answer of the transport to one `MemWrite`: exactly three outcomes (R119). -/
inductive TransportAnswer where
  /-- All bytes were delivered, in order. -/
  | ok
  /-- The call failed after the first `delivered` bytes (all of them, if there are fewer) reached the expander (R118). -/
  | fail (delivered : Nat)
  /-- The call never returns. -/
  | never
  deriving DecidableEq, Repr, Inhabited

/-- FREE VALUE (log 1): the transport's answer to its `n`-th call where the environment's list gives none. -/
opaque Config.freeAnswer : Nat → TransportAnswer

/-- FREE VALUE (log 9): the nibble latched where R47 leaves it unspecified (U5), as the `n`-th latch. -/
opaque Config.freeNibble : Nat → Nibble

/-- FREE VALUE (log 4): what the expander's port holds at power-on (R31, U15). -/
opaque Config.powerOnPort : Byte

/-- FREE VALUE (log 5): the physical width `P_COLS`, which R5 leaves OPEN. -/
opaque Config.openCols : Nat

/-- The default configuration of R5, with `P_COLS` open. -/
def Config.standard : Config := { cols := Config.openCols }

end Sys2Proof
end

