-- ==== Sys2Proof/Machine/State.lean ====
section
/-! DEFINITION. The state of the machine as plain data (R15, R34), the events it performs (R11), what a run shows
(R14), and the reasons a step can stop. -/

namespace Sys2Proof.Machine

/-- `PHASE` (R18): 1 bit. -/
inductive Phase where
  /-- 0: no operation in progress; a request may be accepted. -/
  | idle
  /-- 1: the operation in `REQ` is being performed. -/
  | busy
  deriving DecidableEq, Repr

/-- `STATUS` (R23), and the response of a request (R29). -/
inductive Status where
  | none
  | ok
  | failTransport
  | failIllegal
  deriving DecidableEq, Repr

/-- `CTRL` (R32): the controller's conceptual initialization state (ghost). -/
inductive Ctrl where
  | poweredOnUnknown
  | eightBitProbed
  | fourBitCommitted
  | configured
  | clearedReady
  deriving DecidableEq, Repr

/-- One event of an operation's list (R11). -/
inductive Event where
  /-- `Xfer(bytes)`: one `MemWrite(P_ADDR7, len(bytes), bytes)`. -/
  | xfer (bytes : List Byte)
  /-- `Wait(us)`: one `Delay(us)`. -/
  | wait (us : Nat)
  deriving DecidableEq, Repr

/-- How a `MemWrite` call ended, as the block saw it (R119, R136). -/
inductive CallResult where
  | ok
  | fail
  /-- A reset of the block abandoned the call (R136). -/
  | abandoned
  deriving DecidableEq, Repr

/-- One entry of the observation of a run (R14). -/
inductive Obs where
  /-- `MemWrite(addr, len(bytes), bytes)`, how it ended, and the bytes the expander received. -/
  | memWrite (addr : Addr7) (bytes : List Byte) (result : CallResult) (delivered : List Byte)
  /-- `Delay(us)`, completed. -/
  | delay (us : Nat)
  /-- The response of a request (R29). -/
  | response (r : Status)
  /-- The block took the presented word `w`, legal or not (R25). No part of R14's trace (log 11). -/
  | request (w : ReqWord)
  /-- The block was reset (R136). No part of R14's trace (log 11). -/
  | reset
  deriving DecidableEq, Repr

/-- One nibble latched by the controller, with the register-select level (R47). -/
structure Latch where
  rs : Bool
  nibble : Nibble
  deriving DecidableEq, Repr

/-- Why the machine stops. -/
inductive Fault where
  /-- Raised by the one operation that calls the transport, when the call never returns: "no further step", a stuck
  state (R25, R119). Safe: it is the spec's own outcome, never a success or a failure. -/
  | transportNeverReturns
  /-- Raised by `step` in a state that is BUSY while `REQ` is no legal word. The spec gives no effect; the invariant
  of Safety rules the state out (log 8). Safe. -/
  | busyWithIllegalRequest
  /-- Raised by the shared operation when `EIDX` lies past the end of the event list while BUSY. R21 rules the state
  out, and the invariant of Safety says so (log 8). Safe. -/
  | eventIndexOutOfRange
  deriving DecidableEq, Repr

/-- Why the model gives no meaning. -/
inductive Refusal where
  /-- Raised by `exec` for an instruction that has no meaning yet; no arm of `exec` raises it now. Safe. -/
  | notModelled (mnemonic : String)
  /-- Raised by `step` under a configuration that is not well-formed: "A model refuses a configuration" below the
  minimums (R111), and R5's other constraints (log 6). Safe. -/
  | illFormedConfig
  deriving DecidableEq, Repr

/-- The machine and its surroundings. The last four fields are the environment's inputs and the counter that picks
free answers. -/
structure State where
  /-- The configuration: read by the step, never written (R16). -/
  cfg : Config
  /-- `PHASE` (R18). -/
  phase : Phase
  /-- `REQ`: the request word accepted last (R19). -/
  req : ReqWord
  /-- `EIDX`: the index of the next event (R21). -/
  eidx : BitVec 6
  /-- `STATUS` (R23). -/
  status : Status
  /-- `PORT`: the expander's output register, outside the block (R31). -/
  port : Byte
  /-- `CTRL`: ghost (R32). -/
  ctrl : Ctrl
  /-- The nibbles the controller has latched, oldest first (R47): observation only. -/
  latched : List Latch
  /-- What the run has shown, oldest first (R14): observation only. -/
  log : List Obs
  /-- The request port: the head is the word presented now, the rest follow it (R26). -/
  requests : List ReqWord
  /-- The transport port's answers to the coming calls (R27, R119). -/
  answers : List TransportAnswer
  /-- The reset line at each coming step: `some cut` asserted, with `cut` bytes of a transaction in flight already
  delivered; `none`, or no entry, not asserted (R136). -/
  resets : List (Option Nat)
  /-- How many transport calls have been answered: the model's own counter, which picks free answers (log 1). -/
  calls : Nat
  deriving DecidableEq, Repr

/-- Just after power-on and a reset of the block (R34, R136, R139): nothing presented, nothing performed. -/
def State.reset : State where
  cfg := Config.standard
  phase := .idle
  req := 0x0000#16
  eidx := 0#6
  status := .none
  port := Config.powerOnPort
  ctrl := .poweredOnUnknown
  latched := []
  log := []
  requests := []
  answers := []
  resets := []
  calls := 0

end Sys2Proof.Machine
end

