-- ==== Sys2Proof/Machine/Flags.lean ====
section
/-! DEFINITION. The codes of the status and phase registers (R18, R23, R114). The block has no other flag (R30). -/

namespace Sys2Proof.Machine

/-- The 1-bit code of `PHASE` (R18). -/
def phaseCode : Phase → BitVec 1
  | .idle => 0#1
  | .busy => 1#1

/-- The 2-bit code of `STATUS` and of a response (R23, R114). -/
def statusCode : Status → BitVec 2
  | .none => 0#2
  | .ok => 1#2
  | .failTransport => 2#2
  | .failIllegal => 3#2

/-- The status of a 2-bit code: every value is legal (R23). -/
def statusOfCode (v : BitVec 2) : Status :=
  if v = 0#2 then .none else if v = 1#2 then .ok else if v = 2#2 then .failTransport else .failIllegal

end Sys2Proof.Machine
end

