-- ==== Sys2Proof/Machine/Frames.lean ====
section
/-! DEFINITION. The frame functions (R58 to R60, R71 to R74, R77): how a byte becomes four frames, and transactions. -/

namespace Sys2Proof.Machine

/-- The high nibble `b[7:4]` (R64). -/
def hiNibble (b : Byte) : Nibble := b.extractLsb' 4 4

/-- The low nibble `b[3:0]` (R64). -/
def loNibble (b : Byte) : Nibble := b.extractLsb' 0 4

/-- A level at bit position `pos` of the frame (R71). -/
def lineAt (level : Bool) (pos : Fin 4) : Byte := (BitVec.ofBool level).setWidth 8 <<< pos.val

/-- `CTL(rs, en)`: the control nibble (R71). -/
def ctlNibble (c : Config) (rs en : Bool) : Byte :=
  lineAt rs c.posRs ||| lineAt c.rwW c.posRw ||| lineAt en c.posEn ||| lineAt c.bl c.posBl

/-- `FRAME(n, rs, en)` (R72). -/
def frame (c : Config) (n : Nibble) (rs en : Bool) : Byte := (n.setWidth 8 <<< 4) ||| ctlNibble c rs en

/-- `STROBE(n, rs)`: enable high, then enable low, all else the same (R73). -/
def strobe (c : Config) (n : Nibble) (rs : Bool) : List Byte := [frame c n rs true, frame c n rs false]

/-- `ENC(b, rs)`: the four frames of a byte, high nibble first (R74, R40). -/
def enc (c : Config) (b : Byte) (rs : Bool) : List Byte :=
  strobe c (hiNibble b) rs ++ strobe c (loNibble b) rs

/-- The kind of a byte: a command (RS = 0) or data (RS = 1) (R77). -/
inductive ByteKind where
  | command
  | character
  deriving DecidableEq, Repr

/-- Two transactions of two frames (R63). -/
def twoPairs (f : List Byte) : List Event := [.xfer (f.take 2), .xfer (f.drop 2)]

/-- `GROUP(f, kind)` (R77, R63). -/
def groupFrames (g : Grouping) (f : List Byte) (kind : ByteKind) : List Event :=
  match g, kind with
  | .source, .command => twoPairs f
  | .source, .character => [.xfer f]
  | .perNibble, _ => twoPairs f
  | .perByteOp, _ => [.xfer f]
  | .perFrame, _ => f.map fun x => .xfer [x]

/-- The enable line of an expander byte (R60). -/
def enLine (c : Config) (b : Byte) : Bool := b.getLsbD c.posEn.val

/-- The register-select line of an expander byte (R60). -/
def rsLine (c : Config) (b : Byte) : Bool := b.getLsbD c.posRs.val

/-- The read/write line of an expander byte (R60). -/
def rwLine (c : Config) (b : Byte) : Bool := b.getLsbD c.posRw.val

/-- The backlight line of an expander byte (R60). -/
def blLine (c : Config) (b : Byte) : Bool := b.getLsbD c.posBl.val

end Sys2Proof.Machine
end

