-- ==== Sys2Proof/Machine/Operands.lean ====
section
/-! DEFINITION. The operand forms: SETCUR's row and column (R65, R90, R91), and the operation a request runs (R11). -/

namespace Sys2Proof.Machine

/-- The command base of a row: `ROW0_BASE` when the row is 0, `ROW1_BASE` otherwise (R90). -/
def rowBase (c : Config) (row : BitVec 1) : Byte := if row = 0#1 then c.row0Base else c.row1Base

/-- The command byte `(base + col) mod 256` (R91). -/
def cursorCommand (c : Config) (row : BitVec 1) (col : Byte) : Byte := rowBase c row + col

/-- What the sequencer runs: the event list `E(op)` (R11), and the ghost transitions of `CTRL` (R108). -/
structure Operation where
  /-- `E(op)`. -/
  events : List Event
  /-- What `CTRL` becomes when the request is accepted, if it changes. -/
  onAccept : Option Ctrl
  /-- The events whose completion changes `CTRL`: the index of the event, and what `CTRL` becomes. -/
  marks : List (Nat × Ctrl)
  deriving DecidableEq, Repr

/-- An operation that leaves `CTRL` alone: every one but INIT. -/
def plainOperation (events : List Event) : Operation := { events, onAccept := none, marks := [] }

/-- What `CTRL` becomes when event `k` completes, if it changes. -/
def Operation.markAt (op : Operation) (k : Nat) : Option Ctrl := op.marks.lookup k

end Sys2Proof.Machine
end

