-- ==== Sys2Proof/Machine/Ops.lean ====
section
/-! DEFINITION. The named operations of the sequencer (R25): the expander's port and the controller's latch, the
transport's answer, the response, raising an error, accepting a request, the reset, and the one operation that every
request's meaning runs. -/

namespace Sys2Proof.Machine

/-- Append one entry to the observation of the run (R14). -/
def observe (o : Obs) (s : State) : State := { s with log := s.log ++ [o] }

/-- The nibble latched by a frame `b` with EN = 0 that arrives while the port has EN = 1: the frame's nibble when the
port held the same nibble and RS, else unspecified, a free value (R47 item 1, U5). -/
def latchedNibble (b : Byte) (s : State) : Nibble :=
  if hiNibble b = hiNibble s.port ∧ rsLine s.cfg b = rsLine s.cfg s.port then hiNibble b
  else Config.freeNibble s.latched.length

/-- What a delivered byte latches: a falling enable line latches one nibble with the frame's RS level; nothing else
latches (R47). -/
def newLatch (b : Byte) (s : State) : List Latch :=
  if enLine s.cfg s.port = true ∧ enLine s.cfg b = false then [⟨rsLine s.cfg b, latchedNibble b s⟩] else []

/-- One data byte reaches the expander: `PORT <- byte`, whole (R37). -/
def deliverByte (b : Byte) (s : State) : State :=
  { s with port := b, latched := s.latched ++ newLatch b s }

/-- Bytes take effect in delivery order (R37, R46). -/
def deliver : List Byte → State → State
  | [], s => s
  | b :: bs, s => deliver bs (deliverByte b s)

/-- The transport's answer to the next call: the environment's, or a free one where it gives none (R119, log 1). -/
def nextAnswer (s : State) : TransportAnswer :=
  match s.answers with
  | a :: _ => a
  | [] => Config.freeAnswer s.calls

/-- The answer has been taken. -/
def takeAnswer (s : State) : State := { s with answers := s.answers.tail, calls := s.calls + 1 }

/-- The next event: `EIDX` goes up by one (R22), and `CTRL` moves if the completed event is one of R108's points. -/
def advance (mark : Option Ctrl) (s : State) : State :=
  { s with eidx := s.eidx + 1#6, ctrl := mark.getD s.ctrl }

/-- A request completes: `PHASE <- IDLE`, `STATUS <- r`, `respond(r)` (R25, R29). -/
def respond (r : Status) (s : State) : State :=
  observe (.response r) { s with phase := .idle, status := r }

/-- The two errors (R114). -/
inductive BlockError where
  | transportFailure
  | illegalRequest
  deriving DecidableEq, Repr

/-- The response code of an error (R114). -/
def errorStatus : BlockError → Status
  | .transportFailure => .failTransport
  | .illegalRequest => .failIllegal

/-- What an error makes of `CTRL`: a TransportFailure sets it to PoweredOn-Unknown whatever it was (R126); an
IllegalRequest leaves it (R117). -/
def errorCtrl : BlockError → Ctrl → Ctrl
  | .transportFailure, _ => .poweredOnUnknown
  | .illegalRequest, c => c

/-- RAISING AN ERROR (R115, R117, R124): no state is saved but `STATUS`, `PHASE` is IDLE, `EIDX` keeps its value, and
the response goes to the host. There is no return from it (R125): the block takes the next request (R121). -/
def raiseError (e : BlockError) (s : State) : State :=
  respond (errorStatus e) { s with ctrl := errorCtrl e s.ctrl }

/-- The presented word is taken: `x[REQ] <- w` (R25). -/
def latchRequest (w : ReqWord) (rest : List ReqWord) (s : State) : State :=
  observe (.request w) { s with req := w, requests := rest }

/-- A legal request is accepted: `PHASE <- BUSY`, `EIDX <- 0`, `STATUS <- NONE` (R25), and INIT's ghost (R108). -/
def acceptRequest (mark : Option Ctrl) (s : State) : State :=
  { s with phase := .busy, eidx := 0#6, status := .none, ctrl := mark.getD s.ctrl }

/-- The observation of one transport call to the configured address (R27, R36). -/
def callObs (s : State) (bytes : List Byte) (r : CallResult) (delivered : List Byte) : Obs :=
  .memWrite s.cfg.addr7 bytes r delivered

/-- The event `Xfer(bs)`: `r <- MemWrite(P_ADDR7, len(bs), bs)` (R25, R27) with its three outcomes (R119). On `fail` the
expander has received a leading part of `bs` (R118). -/
def performXfer (mark : Option Ctrl) (bs : List Byte) (s : State) : Host.Outcome State Fault Refusal :=
  match nextAnswer s with
  | .ok => .next (advance mark (observe (callObs s bs .ok bs) (deliver bs (takeAnswer s))))
  | .fail j =>
    .next (raiseError .transportFailure
      (observe (callObs s bs .fail (bs.take j)) (deliver (bs.take j) (takeAnswer s))))
  | .never => .fault .transportNeverReturns

/-- The event `Wait(us)`: `Delay(us)` always completes (R127, R128). -/
def performWait (mark : Option Ctrl) (us : Nat) (s : State) : State := advance mark (observe (.delay us) s)

/-- The sequencer's step for the operation it runs (R25): accept it when IDLE; when BUSY perform the event at `EIDX`,
or complete after the last one. -/
def runOperation (op : Operation) (s : State) : Host.Outcome State Fault Refusal :=
  match s.phase with
  | .idle => .next (acceptRequest op.onAccept s)
  | .busy =>
    if s.eidx.toNat = op.events.length then .next (respond .ok s)
    else
      match op.events[s.eidx.toNat]? with
      | some (.xfer bs) => performXfer (op.markAt s.eidx.toNat) bs s
      | some (.wait us) => .next (performWait (op.markAt s.eidx.toNat) us s)
      | none => .fault .eventIndexOutOfRange

/-- What a reset makes of `CTRL`: unchanged, but PoweredOn-Unknown when an operation is abandoned (R137). -/
def resetCtrl (s : State) : Ctrl :=
  match s.phase with
  | .idle => s.ctrl
  | .busy => .poweredOnUnknown

/-- The reset of the block (R136, R137): the sequencer registers take their reset values; the configuration, `PORT` and
what the run has shown stay; no event is performed and no response given. -/
def lnsReset (s : State) : State :=
  observe .reset { s with phase := .idle, req := 0x0000#16, eidx := 0#6, status := .none, ctrl := resetCtrl s }

/-- The transaction in flight when a reset strikes: its first `cut` bytes have reached the expander, and the call is
abandoned; with `cut = 0` the reset falls between two events (R136, R137, log 3).
DESIGN CHOICE (log 18): an event cut short by a reset is logged, and so stands among the events of R14, only where it is a
transaction with one byte or more delivered; a wait already begun, and a call begun with no byte delivered, are not
logged. The spec does not say whether such an event counts as performed. -/
def abandonEvent (cut : Nat) (e : Option Event) (s : State) : State :=
  match cut, e with
  | k + 1, some (.xfer bs) =>
    observe (callObs s bs .abandoned (bs.take (k + 1))) (deliver (bs.take (k + 1)) s)
  | _, _ => s

end Sys2Proof.Machine
end

