-- ==== Sys2Proof/Machine/FrameEncoder.lean ====
section
/-! DEFINITION. CMD and DATA (R75, R76). -/

namespace Sys2Proof.Machine

/-- `E(CMD(b))` (R75). -/
def eventsCmd (c : Config) (b : Byte) : List Event := groupFrames c.group (enc c b false) .command

/-- `E(DATA(b))` (R76). -/
def eventsData (c : Config) (b : Byte) : List Event := groupFrames c.group (enc c b true) .character

/-- `CMD b` (R75): every `b` is legal and sent unchecked, with no wait before or after (R87, R88). -/
def execCmd (b : Byte) (s : State) : Host.Outcome State Fault Refusal :=
  runOperation (plainOperation (eventsCmd s.cfg b)) s

/-- `DATA b` (R76): every code is sent untranslated (R13). -/
def execData (b : Byte) (s : State) : Host.Outcome State Fault Refusal :=
  runOperation (plainOperation (eventsData s.cfg b)) s

end Sys2Proof.Machine
end

