-- ==== Sys2Proof/Machine/Cursor.lean ====
section
/-! DEFINITION. SETCUR (R89). -/

namespace Sys2Proof.Machine

/-- `E(SETCUR(row, col)) = E(CMD(a))` with `a = (base + col) mod 256` (R89, R92). -/
def eventsSetcur (c : Config) (row : BitVec 1) (col : Byte) : List Event := eventsCmd c (cursorCommand c row col)

/-- `SETCUR row, col` (R89): the column is not checked (R93). -/
def execSetcur (row : BitVec 1) (col : Byte) (s : State) : Host.Outcome State Fault Refusal :=
  runOperation (plainOperation (eventsSetcur s.cfg row col)) s

end Sys2Proof.Machine
end

