-- ==== Sys2Proof/Machine/InitSequence.lean ====
section
/-! DEFINITION. INIT (R100 to R108). -/

namespace Sys2Proof.Machine

/-- A step of the table of R101: a wait or a command. -/
inductive InitStep where
  | wait (us : Nat)
  | command (b : Byte)
  deriving DecidableEq, Repr

/-- `INIT_STEPS` (R101), steps 0 to 11. -/
def initSteps (c : Config) : List InitStep :=
  [.wait c.tPowerUs, .command 0x03#8, .wait c.tG1Us, .command 0x03#8, .wait c.tG2Us, .command 0x03#8,
    .command 0x02#8, .command 0x28#8, .command 0x0C#8, .command 0x06#8, .command 0x01#8, .wait c.tClrUs]

/-- `ev(s)` (R100): each command step is a full CMD (R102). -/
def initStepEvents (c : Config) : InitStep → List Event
  | .wait us => [.wait us]
  | .command b => eventsCmd c b

/-- `E(INIT)` (R100). -/
def eventsInit (c : Config) : List Event := (initSteps c).flatMap (initStepEvents c)

/-- The index in `E(INIT)` of the last event of step `n`. -/
def initLastEvent (c : Config) (n : Nat) : Nat := (((initSteps c).take (n + 1)).flatMap (initStepEvents c)).length - 1

/-- INIT with the ghost transitions of `CTRL` (R108): at acceptance, and at the last event of steps 5, 6, 9 and 11. -/
def initOperation (c : Config) : Operation where
  events := eventsInit c
  onAccept := some .poweredOnUnknown
  marks := [(initLastEvent c 5, .eightBitProbed), (initLastEvent c 6, .fourBitCommitted),
    (initLastEvent c 9, .configured), (initLastEvent c 11, .clearedReady)]

/-- `INIT` (R100): the same events whatever the controller's state, as often as it is requested (R110). -/
def execInit (s : State) : Host.Outcome State Fault Refusal := runOperation (initOperation s.cfg) s

end Sys2Proof.Machine
end

