-- ==== Sys2Proof/Syntax.lean ====
section
/-! DEFINITION. The four requests of the block, one constructor per row of the opcode table (R55, R56). -/

namespace Sys2Proof

/-- A legal request. The operand types are those of R20: `b`, `col` of type `u8`, `row` of type `u1`. -/
inductive Instr where
  /-- `CMD b`: send one 8-bit controller command (R75). -/
  | cmd (b : Byte)
  /-- `DATA b`: send one 8-bit character code (R76). -/
  | data (b : Byte)
  /-- `SETCUR row, col`: move the controller's DDRAM address (R89). -/
  | setcur (row : BitVec 1) (col : Byte)
  /-- `INIT`: run the power-on initialization sequence (R100). -/
  | init
  deriving DecidableEq, Repr

end Sys2Proof
end

