-- ==== Sys2Proof/Machine/Dispatch.lean ====
section
/-! DEFINITION. One arm per request: the sequencer's step while that request is the current operation (R20, R25). -/

namespace Sys2Proof.Machine

def exec (i : Instr) (s : State) : Host.Outcome State Fault Refusal :=
  match i with
  | .cmd b => Sys2Proof.Machine.execCmd b s
  | .data b => Sys2Proof.Machine.execData b s
  | .setcur row col => Sys2Proof.Machine.execSetcur row col s
  | .init => Sys2Proof.Machine.execInit s

end Sys2Proof.Machine
end

