-- ==== Sys2Proof/WellFormed.lean ====
section
/-! DEFINITION. What is well-formed: a configuration (R5, R111) and a request word (R56). The operands of an
`Instr` need no check: their types hold exactly the values R20 gives them. -/

namespace Sys2Proof

/-- The parameters that R5 calls fixed have their fixed values. -/
def Config.fixedOk (c : Config) : Bool :=
  decide (c.addr7 = 0x27#7) && decide (c.sclHz = 100000) && decide (c.row0Base = 0x80#8)
    && decide (c.row1Base = 0xC0#8) && decide (c.rows = 2)

/-- "The four `P_POS_*` values must be pairwise distinct and each in 0..3" (R5); `Fin 4` says the second half. -/
def Config.positionsOk (c : Config) : Bool :=
  decide ([c.posRs, c.posRw, c.posEn, c.posBl].Nodup)

/-- The minimums of INIT's waits (R103, R111). -/
def Config.waitsOk (c : Config) : Bool :=
  decide (40000 ≤ c.tPowerUs) && decide (4100 ≤ c.tG1Us) && decide (100 ≤ c.tG2Us)
    && decide (1600 ≤ c.tClrUs)

/-- A configuration a model accepts (R5, R111). -/
def Config.wf (c : Config) : Bool :=
  c.fixedOk && c.positionsOk && c.waitsOk

/-- One row of the request table: `match` and `mask` (R56). -/
structure RequestRow where
  pattern : ReqWord
  mask : ReqWord
  deriving DecidableEq, Repr

/-- The request table (R56): CMD, DATA, SETCUR, INIT. -/
def requestTable : List RequestRow :=
  [⟨0x1000#16, 0xFF00#16⟩, ⟨0x2000#16, 0xFF00#16⟩, ⟨0x3000#16, 0xFE00#16⟩, ⟨0x4000#16, 0xFFFF#16⟩]

/-- "A word is legal exactly when it matches one row (`w & mask == match`)" (R56). -/
def wordLegal (w : ReqWord) : Bool :=
  requestTable.any fun r => decide (w &&& r.mask = r.pattern)

end Sys2Proof
end

