-- ==== Sys2Proof/Decode.lean ====
section
/-! DEFINITION. The decoder of a request word (R57), total on every word, and the encoder (R68). -/

namespace Sys2Proof

/-- Why a word is illegal: the four classes of R66, in their order. -/
inductive DecodeError where
  | reservedOpcode
  | auxNotZero
  | rowAuxNotZero
  | initOperandNotZero
  deriving DecidableEq, Repr

/-- What the decoder answers: an operation, or Illegal with its class (R57, R66). -/
inductive Decoded where
  | op (i : Instr)
  | illegal (why : DecodeError)
  deriving DecidableEq, Repr

/-- `OPC`, bits 15..12 (R54). -/
def opcField (w : ReqWord) : BitVec 4 := w.extractLsb' 12 4

/-- `AUX`, bits 11..8 (R54). -/
def auxField (w : ReqWord) : BitVec 4 := w.extractLsb' 8 4

/-- `AUX[3:1]`, bits 11..9 (R57). -/
def auxHighField (w : ReqWord) : BitVec 3 := w.extractLsb' 9 3

/-- `AUX[0]`, bit 8: SETCUR's row (R56, R65). -/
def rowField (w : ReqWord) : BitVec 1 := w.extractLsb' 8 1

/-- `PAY`, bits 7..0 (R54). -/
def payField (w : ReqWord) : Byte := w.extractLsb' 0 8

/-- `decode` of R57. -/
def decode (w : ReqWord) : Decoded :=
  if opcField w = 0x1#4 then
    if auxField w = 0#4 then .op (.cmd (payField w)) else .illegal .auxNotZero
  else if opcField w = 0x2#4 then
    if auxField w = 0#4 then .op (.data (payField w)) else .illegal .auxNotZero
  else if opcField w = 0x3#4 then
    if auxHighField w = 0#3 then .op (.setcur (rowField w) (payField w)) else .illegal .rowAuxNotZero
  else if opcField w = 0x4#4 then
    if auxField w = 0#4 ∧ payField w = 0#8 then .op .init else .illegal .initOperandNotZero
  else .illegal .reservedOpcode

/-- The word of an operation (R56, R68): `OPC ++ AUX ++ PAY`. -/
def encode : Instr → ReqWord
  | .cmd b => 0x1#4 ++ 0x0#4 ++ b
  | .data b => 0x2#4 ++ 0x0#4 ++ b
  | .setcur row col => 0x3#4 ++ 0x0#3 ++ row ++ col
  | .init => 0x4000#16

/-- The request word the host presents for the opcode table's bits `w` (one word, R54). -/
def tableWord (nbits w : Nat) : ReqWord := BitVec.ofNat 16 (w % 2 ^ nbits)

/-- What the decoder reads from the opcode table's bits `w`. -/
def decodeTableWord (nbits w : Nat) : Option Instr :=
  match decode (tableWord nbits w) with
  | .op i => some i
  | .illegal _ => none

end Sys2Proof
end

