-- ==== Sys2Proof/Machine/Operations.lean ====
section
/-! DEFINITION. The operation of each request (R20), and the reset of the block while one is in progress (R136). -/

namespace Sys2Proof.Machine

/-- The operation of a request: `E(op)` with its ghost transitions (R11, R20). -/
def operationOf (c : Config) : Instr → Operation
  | .cmd b => plainOperation (eventsCmd c b)
  | .data b => plainOperation (eventsData c b)
  | .setcur row col => plainOperation (eventsSetcur c row col)
  | .init => initOperation c

/-- `E(op)` (R11). -/
def eventsOf (c : Config) (i : Instr) : List Event := (operationOf c i).events

/-- The event in progress: the one at `EIDX` of the current operation, while BUSY (R20, R21). -/
def currentEvent (s : State) : Option Event :=
  match s.phase, decode s.req with
  | .busy, .op i => (eventsOf s.cfg i)[s.eidx.toNat]?
  | _, _ => none

/-- A step in which the reset line is asserted (R136). -/
def resetStep (cut : Nat) (s : State) : State := lnsReset (abandonEvent cut (currentEvent s) s)

/-- The reset line is not asserted in the coming step. -/
def resetLow (s : State) : Bool :=
  match s.resets.head? with
  | some (some _) => false
  | _ => true

/-- The reset line's sample for this step has been taken. -/
def takeReset (s : State) : State := { s with resets := s.resets.tail }

end Sys2Proof.Machine
end

