-- ==== Sys2Proof/Machine/Sequencer.lean ====
section
/-! DEFINITION. The sequencer's step (R25) around the meanings: taking the presented word, running the current
operation, the reset line (R136), the refusal of an ill-formed configuration (R111). -/

namespace Sys2Proof.Machine

/-- IDLE, with the word `w` presented (R25): latch it; an illegal word raises IllegalRequest; a legal one is run. -/
def acceptStep (w : ReqWord) (rest : List ReqWord) (s : State) : Host.Outcome State Fault Refusal :=
  match decode w with
  | .op i => exec i (latchRequest w rest s)
  | .illegal _ => .next (raiseError .illegalRequest (latchRequest w rest s))

/-- The step of R25. With no word presented an idle block stays as it is (R135). -/
def sequencerStep (s : State) : Host.Outcome State Fault Refusal :=
  match s.phase with
  | .idle =>
    match s.requests with
    | [] => .next s
    | w :: rest => acceptStep w rest s
  | .busy =>
    match decode s.req with
    | .op i => exec i s
    | .illegal _ => .fault .busyWithIllegalRequest

/-- One step of the block: an asserted reset line resets it (R136); otherwise the sequencer steps (R25).
DESIGN CHOICE (log 19): a reset sampled in the step of a call that would never return wins over that answer, so it frees
the block; where no reset is sampled in that step the block is stuck for good (R119, R153), and no later reset frees it. -/
def blockStep (s : State) : Host.Outcome State Fault Refusal :=
  match s.cfg.wf with
  | false => .refused .illFormedConfig
  | true =>
    match s.resets.head? with
    | some (some cut) => .next (resetStep cut (takeReset s))
    | _ => sequencerStep (takeReset s)

/-- The host presents a word, ahead of what it presents later (R26). -/
def present (w : ReqWord) (s : State) : State := { s with requests := w :: s.requests }

/-- The host presents a word to a block that is idle, with the reset line low for this step (log 2). -/
def presentNow (w : ReqWord) (s : State) : State :=
  present w { s with phase := .idle, resets := none :: s.resets }

end Sys2Proof.Machine
end

