-- ==== Sys2Proof/Machine/Step.lean ====
section
/-! DEFINITION. One step of the machine, and how an instruction is placed where the next step takes it. -/

namespace Sys2Proof.Machine

/-- One step of the machine (R25, R136). -/
def step (s : State) : Host.Outcome State Fault Refusal := blockStep s

/-- The host presents the opcode table's word to an idle block, so that the next step takes it (R25, R26; log 2). -/
def State.withFetchWord (s : State) (nbits w : Nat) : State := presentNow (tableWord nbits w) s

end Sys2Proof.Machine
end

