-- ==== Sys2Proof/Machine/Bus.lean ====
section
/-! DEFINITION. What a transaction looks like on the bus (R42, R62) and how long it takes at least (R150 to R152). The
transport makes this framing, not the block, and no step reads anything here: general knowledge by the spec's own
marks (log 15). -/

namespace Sys2Proof.Machine

/-- The address byte: the slave address in bits 7..1 and R/W = write in bit 0 (R42). -/
def addressByte (a : Addr7) : Byte := a ++ 0#1

/-- What stands on the bus in one transaction (R62). -/
inductive WireItem where
  | start
  | byte (b : Byte)
  | stop
  deriving DecidableEq, Repr

/-- START, the address byte, the data bytes in order, STOP (R62). -/
def wireItems (a : Addr7) (bytes : List Byte) : List WireItem :=
  .start :: .byte (addressByte a) :: bytes.map .byte ++ [.stop]

/-- The least number of bit periods of a transaction of `n` data bytes (R150). -/
def bitPeriods (n : Nat) : Nat := 9 * (n + 1)

/-- The least duration of an event in microseconds: a wait's own (R127), or the wire time at `P_SCL_HZ` (R150). -/
def eventMicros (c : Config) : Event → Nat
  | .xfer bs => bitPeriods bs.length * 1000000 / c.sclHz
  | .wait us => us

/-- The least duration of an operation (R151, R152). -/
def operationMicros (c : Config) (i : Instr) : Nat := ((eventsOf c i).map (eventMicros c)).sum

end Sys2Proof.Machine
end

