-- ==== Sys2Proof/Machine/Print.lean ====
section
/-! DEFINITION. PRINT, the host's own procedure over DATA requests (R70, R94). -/

namespace Sys2Proof.Machine

/-- PRINT's expansion: `DATA s0; DATA s1; ...`, in order; the empty text gives no request (R70). -/
def printWords (text : List Byte) : List ReqWord := text.map fun c => encode (.data c)

/-- What the host has of a word it presented. -/
inductive Reply where
  /-- Its response (R29). -/
  | response (r : Status)
  /-- None, for good: a reset abandoned the accepted request, which gets no response (R136). The host still awaits one
  (log 14). -/
  | abandoned
  /-- None within the bound on the steps. No run from a state of the invariant ends so. -/
  | waiting
  deriving DecidableEq, Repr

/-- "present ...; await its response" (R94): the host steps the machine until the word it presented has its response, for at
most `n` steps. `taken` says that the block has taken the word. Until then the word is held: while the block is BUSY
(R26), and over a reset, which takes no word (R136). -/
def awaitResponse : Nat → Bool → State → Host.Outcome (State × Reply) Fault Refusal
  | 0, _, s => .next (s, .waiting)
  | n + 1, taken, s =>
    match step s with
    | .next t =>
      match resetLow s, taken with
      | false, true => .next (t, .abandoned)
      | false, false => awaitResponse n false t
      | true, false =>
        match s.phase, t.phase with
        | .busy, _ => awaitResponse n false t
        | .idle, .busy => awaitResponse n true t
        | .idle, .idle => .next (t, .response t.status)
      | true, true =>
        match t.phase with
        | .busy => awaitResponse n true t
        | .idle => .next (t, .response t.status)
    | .fault f => .fault f
    | .refused r => .refused r

/-- A bound on the steps until a presented word has its response: one for each reset sample, and those of the running and
of the presented operation, neither of which has more than 36 events (R107). -/
def awaitBound (s : State) : Nat := s.resets.length + 128

/-- The host presents one word and awaits its response (R94). -/
def issueRequest (w : ReqWord) (s : State) : Host.Outcome (State × Reply) Fault Refusal :=
  awaitResponse (awaitBound s) false (present w s)

/-- `PRINT s` (R94): the state after it, and what it has. At the first response that is not `OK` it returns that response,
and the rest of the text is never presented (R95). It returns only with a response: while it awaits one that a reset took
away, it presents nothing more (log 14). -/
def printText : List Byte → State → Host.Outcome (State × Reply) Fault Refusal
  | [], s => .next (s, .response .ok)
  | c :: rest, s =>
    match issueRequest (encode (.data c)) s with
    | .next (t, reply) => if reply = .response .ok then printText rest t else .next (t, reply)
    | .fault f => .fault f
    | .refused r => .refused r

end Sys2Proof.Machine
end

