-- ==== Sys2Proof/Safety.lean ====
section
/-! DEFINITION. The terms claims are stated in: what a run shows (R14), the invariant of the machine, the end of a run
(R154), the host's duties (R93, R99, R144), and what a claim about the display may assume (R155). -/

namespace Sys2Proof.Machine

/-- The event an entry of the log shows, if it shows one (R14). A call that a reset abandoned after one byte or more counts
as performed; an event abandoned before that is in no entry (DESIGN CHOICE, log 18). -/
def eventSeen : Obs → Option Event
  | .memWrite _ bytes _ _ => some (.xfer bytes)
  | .delay us => some (.wait us)
  | .response _ => none
  | .request _ => none
  | .reset => none

/-- The response an entry of the log shows, if it shows one (R14). -/
def responseSeen : Obs → Option Status
  | .response r => some r
  | _ => none

/-- The bytes an entry of the log shows as delivered to the expander (R14). -/
def bytesSeen : Obs → List Byte
  | .memWrite _ _ _ delivered => delivered
  | _ => []

/-- The ordered sequence of events performed (R14). -/
def eventsSeen (log : List Obs) : List Event := log.filterMap eventSeen

/-- The responses, in order (R14). -/
def responsesSeen (log : List Obs) : List Status := log.filterMap responseSeen

/-- The ordered stream of data bytes delivered to the expander (R14). -/
def deliveredSeen (log : List Obs) : List Byte := log.flatMap bytesSeen

/-- What the log shows of an event that completed (R25). -/
def doneObs (a : Addr7) : Event → Obs
  | .xfer bs => .memWrite a bs .ok bs
  | .wait us => .delay us

/-- The bytes of an event. -/
def eventBytes : Event → List Byte
  | .xfer bs => bs
  | .wait _ => []

/-- The byte stream of an event list: the frames of an operation (R78). -/
def bytesOf (events : List Event) : List Byte := events.flatMap eventBytes

/-- Whether an event is a transaction. -/
def isXfer : Event → Bool
  | .xfer _ => true
  | .wait _ => false

/-- How many transactions an event list holds (R107). -/
def xferCount (events : List Event) : Nat := events.countP isXfer

/-- What the port holds after the bytes `bs` were delivered (R37, R118). -/
def portAfter (bs : List Byte) (port : Byte) : Byte := bs.getLast?.getD port

/-- The two nibbles a byte latches, in order, with its register-select level (R40, R81, R84). -/
def byteLatches (rs : Bool) (b : Byte) : List Latch := [⟨rs, hiNibble b⟩, ⟨rs, loNibble b⟩]

/-- INIT's eight commands, in order (R106). -/
def initCommands : List Byte := [0x03#8, 0x03#8, 0x03#8, 0x02#8, 0x28#8, 0x0C#8, 0x06#8, 0x01#8]

/-- The nibbles a whole operation latches (R84, R106). -/
def operationLatches (c : Config) : Instr → List Latch
  | .cmd b => byteLatches false b
  | .data b => byteLatches true b
  | .setcur row col => byteLatches false (cursorCommand c row col)
  | .init => initCommands.flatMap (byteLatches false)

/-- The reset line is not asserted in any of the next `n` steps. -/
def NoReset (n : Nat) (s : State) : Prop := ∀ r ∈ s.resets.take n, r = none

/-! ### Whether INIT stands -/

/-- What the host knows of the run from its ports. -/
structure HostView where
  /-- The word the block took last and has not answered, if there is one. -/
  pending : Option ReqWord
  /-- An INIT responded `OK`, and no `FAIL_TRANSPORT` and no reset came since. -/
  initStands : Bool
  deriving DecidableEq, Repr

/-- One more entry of the log. -/
def HostView.see (v : HostView) : Obs → HostView
  | .request w => { v with pending := some w }
  | .response .ok =>
    { pending := none
      initStands := v.initStands || decide (v.pending.map decode = some (.op .init)) }
  | .response .failTransport => { pending := none, initStands := false }
  | .response _ => { v with pending := none }
  | .reset => { pending := none, initStands := false }
  | .memWrite _ _ _ _ => v
  | .delay _ => v

/-- What the host knows after the whole log. -/
def hostView (log : List Obs) : HostView := log.foldl HostView.see { pending := none, initStands := false }

/-- An INIT responded `OK` (R155 c), and no response since then was `FAIL_TRANSPORT` and no reset came since then
(R155 d, R141). -/
def initStands (log : List Obs) : Bool := (hostView log).initStands

/-! ### The invariant -/

/-- While BUSY, `REQ` is legal, `0 ≤ EIDX ≤ len(E(op))` (R21), and `STATUS` is `NONE` (R23); the configuration is
well-formed (R5, R111). -/
def regsInv (s : State) : Prop :=
  s.cfg.wf = true ∧
    (s.phase = .busy →
      s.status = .none ∧ ∃ i, decode s.req = .op i ∧ s.eidx.toNat ≤ (eventsOf s.cfg i).length)

/-- While BUSY, the log ends with the request taken and then the events `0 .. EIDX-1` of its operation, each completed in
full (R123). -/
def traceInv (s : State) : Prop :=
  s.phase = .busy →
    ∀ i, decode s.req = .op i →
      ∃ before, s.log =
        before ++ .request s.req :: ((eventsOf s.cfg i).take s.eidx.toNat).map (doneObs s.cfg.addr7)

/-- `PORT` is the byte delivered last, once one was (R31, R37). -/
def portInv (s : State) : Prop :=
  ∀ b, (deliveredSeen s.log).getLast? = some b → s.port = b

/-- After a request responded `OK` the expander's enable line is low (R83). -/
def enableInv (s : State) : Prop :=
  s.status = .ok → enLine s.cfg s.port = false

/-- `CTRL` is Cleared-Ready once INIT's last event has completed, and as long as what the host saw of the run says that
INIT stands (`initStands`), but while another INIT runs (R108, R126, R137, R141). -/
def readyInv (s : State) : Prop :=
  (s.phase = .busy → decode s.req = .op .init → s.eidx.toNat = (eventsOf s.cfg .init).length →
      s.ctrl = .clearedReady) ∧
    (initStands s.log = true → s.ctrl = .clearedReady ∨ (s.phase = .busy ∧ decode s.req = .op .init))

/-- The invariant of the machine: every step keeps it. -/
def State.Inv (s : State) : Prop := regsInv s ∧ traceInv s ∧ portInv s ∧ enableInv s ∧ readyInv s

/-! ### Runs -/

/-- `n` steps of the machine: the host's own run of `Sys2Proof.core`. -/
def runSteps (n : Nat) (s : State) : Host.Outcome State Fault Refusal := Host.Core.run Sys2Proof.core n s

/-- A run ends where the block is idle and the host presents no further request (R154). -/
def RunEnded (s : State) : Prop := s.phase = .idle ∧ s.requests = []

/-- A stuck state: the transport call never returns (R119). -/
def Stuck (s : State) : Prop := step s = .fault .transportNeverReturns

/-- What the block itself holds or reads: everything but the expander's port, the ghost `CTRL`, and the latched
nibbles (R31, R32). -/
def blockView (s : State) : State := { s with port := 0#8, ctrl := .poweredOnUnknown, latched := [] }

/-- The outcome of a step as the block sees it. -/
def outcomeView : Host.Outcome State Fault Refusal → Host.Outcome State Fault Refusal
  | .next s => .next (blockView s)
  | .fault f => .fault f
  | .refused r => .refused r

/-! ### Duties of the host, which the block never checks -/

/-- "The host must give `col < P_COLS`" (R93). -/
def columnDuty (c : Config) : Instr → Bool
  | .setcur _ col => decide (col.toNat < c.cols)
  | _ => true

/-- "The host must keep `col + k ≤ P_COLS`" for a PRINT of length `k` started at column `col` (R99). -/
def printDuty (c : Config) (col : Byte) (text : List Byte) : Bool := decide (col.toNat + text.length ≤ c.cols)

/-- The least wait, in microseconds, the host owes after a request's `OK` (R144): 1600 after clear-display; after
return-home the 1520 of general knowledge (log 15); nothing after any other (R145). -/
def hostWaitMicros : Instr → Nat
  | .cmd b => if b = 0x01#8 then 1600 else if b = 0x02#8 ∨ b = 0x03#8 then 1520 else 0
  | _ => 0

/-- The legal request an entry of the log shows as taken, if it shows one. -/
def legalRequestSeen : Obs → Option Instr
  | .request w =>
    match decode w with
    | .op i => some i
    | .illegal _ => none
  | _ => none

/-- The legal requests of the run, in order. An illegal word is refused without an event and breaks no duty (program P4 of
95_test_vectors.md). -/
def legalRequestsSeen (log : List Obs) : List Instr := log.filterMap legalRequestSeen

/-- What the host knows of its own conduct and the block cannot see. -/
structure HostAccount where
  /-- The boot steps 1 to 3 of R140 were done before the first request. -/
  bootDone : Bool
  /-- How long, in microseconds, the host waited after each legal request's response before its next legal one. -/
  waits : List Nat
  /-- Each PRINT of the host: the column it started at, and its text. -/
  prints : List (Byte × List Byte)
  deriving DecidableEq, Repr

/-- "The host must wait ... before its next request" (R144): each wait between two requests is long enough. -/
def waitsKept : List Instr → List Nat → Bool
  | i :: j :: rest, w :: waits => decide (hostWaitMicros i ≤ w) && waitsKept (j :: rest) waits
  | _ :: _ :: _, [] => false
  | _, _ => true

/-- The host kept the duties of R144 and R149 in the run. -/
def dutiesKept (h : HostAccount) (s : State) : Bool :=
  waitsKept (legalRequestsSeen s.log) h.waits && (legalRequestsSeen s.log).all (columnDuty s.cfg)
    && h.prints.all fun p => printDuty s.cfg p.1 p.2

/-- The launch premises of a claim about the display (R155): (a) the boot steps were done; (b) the configuration meets the
minimums; (c) an INIT responded `OK`; (d) no `FAIL_TRANSPORT` and no reset came since; (e) the host kept its duties. -/
def DisplayDefined (h : HostAccount) (s : State) : Prop :=
  h.bootDone = true ∧ s.cfg.wf = true ∧ initStands s.log = true ∧ dutiesKept h s = true

end Sys2Proof.Machine
end

