-- ==== Sys2Proof/Certificates/Slice0/Obligations.lean ====
section
/-! DEFINITION. The statements for the provers. Each docstring names the rules of spec/ it formalises. -/

open Sys2Proof Sys2Proof.Machine

/-! ### Reset and the invariant -/

/-- R34, R139: the registers, `CTRL` and the configuration right after power-on and a reset of the block. -/
def Obligations.ResetHoldsSpecValues : Prop :=
  State.reset.phase = .idle ∧ phaseCode State.reset.phase = 0#1 ∧ State.reset.req = 0x0000#16 ∧
    State.reset.eidx = 0#6 ∧ State.reset.status = .none ∧ statusCode State.reset.status = 0#2 ∧
    State.reset.ctrl = .poweredOnUnknown ∧ State.reset.cfg.wf = true

/-- The reset state meets the invariant. -/
def Obligations.ResetMeetsInvariant : Prop := State.reset.Inv

/-- R21, R23, R83, R123, R31: every step keeps the invariant, from every state that meets it. -/
def Obligations.StepKeepsInvariant : Prop :=
  ∀ s t : State, s.Inv → step s = .next t → t.Inv

/-- R119, R128, R25: from a state that meets the invariant a step answers a next state, but where a reset line is low,
the block is BUSY at an `Xfer`, and the transport never returns. That the stuck state is a fault is the model's form: log 7.
That a reset asserted in the step of a call that never returns always answers a next state, so that the fault comes only
with the reset line low, is the model's choice: log 19. -/
def Obligations.StepStopsOnlyWhereTransportNeverReturns : Prop :=
  ∀ s : State, s.Inv →
    (∃ t, step s = .next t) ∨
      (step s = .fault .transportNeverReturns ∧ resetLow s = true ∧ s.phase = .busy ∧
        (∃ bs, currentEvent s = some (.xfer bs)) ∧ nextAnswer s = .never)

/-! ### What a step does -/

/-- R25: an idle block takes the presented word; where it decodes to `i`, the step is `exec i` on the state with the
word latched. -/
def Obligations.StepRunsThePresentedRequest : Prop :=
  ∀ (s : State) (w : ReqWord) (rest : List ReqWord) (i : Instr),
    s.cfg.wf = true → resetLow s = true → s.phase = .idle → s.requests = w :: rest → decode w = .op i →
    step s = exec i { s with
      req := w, requests := rest, resets := s.resets.tail, log := s.log ++ [.request w] }

/-- R20, R25: a BUSY block runs the operation that `REQ` decodes to. -/
def Obligations.StepRunsTheCurrentOperation : Prop :=
  ∀ (s : State) (i : Instr),
    s.cfg.wf = true → resetLow s = true → s.phase = .busy → decode s.req = .op i →
    step s = exec i { s with resets := s.resets.tail }

/-- R25, R135: with no word presented an idle block keeps all its state. -/
def Obligations.IdleBlockKeepsItsState : Prop :=
  ∀ s : State, s.cfg.wf = true → resetLow s = true → s.phase = .idle → s.requests = [] →
    step s = .next { s with resets := s.resets.tail }

/-- R117, R25: an illegal word is refused at acceptance. That `REQ` takes the refused word is R25's text against R19's: the
model's choice, log 17. -/
def Obligations.IllegalWordIsAnsweredFailIllegal : Prop :=
  ∀ (s : State) (w : ReqWord) (rest : List ReqWord) (e : DecodeError),
    s.cfg.wf = true → resetLow s = true → s.phase = .idle → s.requests = w :: rest → decode w = .illegal e →
    step s = .next { s with
      req := w, requests := rest, resets := s.resets.tail
      status := .failIllegal, log := s.log ++ [.request w, .response .failIllegal] }

/-- R111: a configuration below a minimum is refused, whatever else the state holds. -/
def Obligations.ConfigurationBelowMinimumIsRefused : Prop :=
  ∀ s : State, s.cfg.tPowerUs < 40000 ∨ s.cfg.tG1Us < 4100 ∨ s.cfg.tG2Us < 100 ∨ s.cfg.tClrUs < 1600 →
    step s = .refused .illFormedConfig

/-- Log 6, the model's choice: a step is refused only under an ill-formed configuration. No request is ever refused. -/
def Obligations.OnlyAnIllFormedConfigurationIsRefused : Prop :=
  (∀ (s : State) (r : Refusal), step s = .refused r → s.cfg.wf = false) ∧
    ∀ (i : Instr) (s : State) (r : Refusal), exec i s ≠ .refused r

/-- R136, R137: a reset of the block, where no transaction is in flight: while idle, in a wait, or between two events. That a
BUSY block past its last event counts as abandoning its operation, so that `CTRL` is PoweredOn-Unknown, and that nothing
is logged of an event cut short, is the model's choice: log 3, log 18. -/
def Obligations.ResetClearsTheSequencer : Prop :=
  ∀ (s : State) (cut : Nat), s.cfg.wf = true → s.resets.head? = some (some cut) →
    cut = 0 ∨ (∀ bs, currentEvent s ≠ some (.xfer bs)) →
    step s = .next { s with
      phase := .idle, req := 0x0000#16, eidx := 0#6, status := .none, resets := s.resets.tail
      log := s.log ++ [.reset]
      ctrl := if s.phase = .busy then .poweredOnUnknown else s.ctrl }

/-- R136, R137: a reset that strikes while a transaction is in flight; the expander has received its first `cut + 1` bytes.
How much is delivered, that the cut event is logged, and that the reset wins also over a call that would never return, is
the model's choice: log 3, log 18, log 19. -/
def Obligations.ResetAbandonsTransactionInFlight : Prop :=
  ∀ (s : State) (cut : Nat) (bs : List Byte),
    s.cfg.wf = true → s.resets.head? = some (some (cut + 1)) → currentEvent s = some (.xfer bs) →
    ∃ t, step s = .next t ∧
      t.phase = .idle ∧ t.req = 0x0000#16 ∧ t.eidx = 0#6 ∧ t.status = .none ∧ t.ctrl = .poweredOnUnknown ∧
      t.port = portAfter (bs.take (cut + 1)) s.port ∧ t.latched = (deliver (bs.take (cut + 1)) s).latched ∧
      t.log = s.log ++ [.memWrite s.cfg.addr7 bs .abandoned (bs.take (cut + 1)), .reset] ∧
      t.cfg = s.cfg ∧ t.requests = s.requests ∧ t.answers = s.answers ∧ t.resets = s.resets.tail

/-! ### Request words -/

/-- Words of 95_test_vectors.md L2.1 (V-D1 to V-D17): legal words decode to their operation, the others to Illegal. -/
def Obligations.RequestVectorsDecode : Prop :=
  decode 0x1028#16 = .op (.cmd 0x28#8) ∧ decode 0x10FF#16 = .op (.cmd 0xFF#8) ∧
    decode 0x2000#16 = .op (.data 0x00#8) ∧ decode 0x204D#16 = .op (.data 0x4D#8) ∧
    decode 0x3000#16 = .op (.setcur 0#1 0x00#8) ∧ decode 0x3100#16 = .op (.setcur 1#1 0x00#8) ∧
    decode 0x31FF#16 = .op (.setcur 1#1 0xFF#8) ∧ decode 0x4000#16 = .op .init ∧
    ∀ w ∈ [0x0000#16, 0x1100#16, 0x2800#16, 0x3200#16, 0x3E00#16, 0x4001#16, 0x4100#16, 0x5000#16, 0xFFFF#16],
      ∃ e, decode w = .illegal e

/-- R56, R57: every request decodes back from its word, with every operand at every value. -/
def Obligations.DecodeOfEncodeIsTheRequest : Prop :=
  ∀ i : Instr, decode (encode i) = .op i

/-- R57: "every legal operation has exactly one word". -/
def Obligations.LegalWordIsTheEncodingOfItsRequest : Prop :=
  ∀ (w : ReqWord) (i : Instr), decode w = .op i → w = encode i

/-- R56: a word is legal exactly when it matches one row, and its operands are the row's fields. -/
def Obligations.WordIsLegalExactlyWhenItMatchesARow : Prop :=
  (∀ (w : ReqWord) (b : Byte), decode w = .op (.cmd b) ↔ w &&& 0xFF00#16 = 0x1000#16 ∧ b = w.setWidth 8) ∧
    (∀ (w : ReqWord) (b : Byte), decode w = .op (.data b) ↔ w &&& 0xFF00#16 = 0x2000#16 ∧ b = w.setWidth 8) ∧
    (∀ (w : ReqWord) (r : BitVec 1) (c : Byte), decode w = .op (.setcur r c) ↔
      w &&& 0xFE00#16 = 0x3000#16 ∧ r = (w >>> 8).setWidth 1 ∧ c = w.setWidth 8) ∧
    (∀ w : ReqWord, decode w = .op .init ↔ w &&& 0xFFFF#16 = 0x4000#16)

/-- R57, R66: the decoder, in arithmetic on the word: which words are illegal, and in which class. -/
def Obligations.IllegalWordsFallInFourClasses : Prop :=
  ∀ w : ReqWord,
    let opc := w.toNat / 4096
    let aux := w.toNat / 256 % 16
    let pay := w.toNat % 256
    (decode w = .illegal .reservedOpcode ↔ opc = 0 ∨ 5 ≤ opc) ∧
      (decode w = .illegal .auxNotZero ↔ (opc = 1 ∨ opc = 2) ∧ aux ≠ 0) ∧
      (decode w = .illegal .rowAuxNotZero ↔ opc = 3 ∧ aux / 2 ≠ 0) ∧
      (decode w = .illegal .initOperandNotZero ↔ opc = 4 ∧ (aux ≠ 0 ∨ pay ≠ 0))

/-! ### Frames -/

/-- R71: bit `k` of the control nibble, for any wiring; bits 7..4 are 0; the four values under the defaults. -/
def Obligations.ControlNibblePlacesFourLines : Prop :=
  (∀ (c : Config) (rs en : Bool) (k : Nat), c.wf = true →
      (ctlNibble c rs en).getLsbD k =
        if k = c.posRs.val then rs else if k = c.posRw.val then c.rwW
        else if k = c.posEn.val then en else if k = c.posBl.val then c.bl else false) ∧
    ∀ n : Nat, ctlNibble { cols := n } false true = 0x0C#8 ∧ ctlNibble { cols := n } false false = 0x08#8 ∧
      ctlNibble { cols := n } true true = 0x0D#8 ∧ ctlNibble { cols := n } true false = 0x09#8

/-- R79, R74: the four frames of CMD and DATA, by the source's own formulas. -/
def Obligations.NibbleSplitFrames : Prop :=
  ∀ (c : Config) (b : Byte),
    bytesOf (eventsOf c (.cmd b)) =
        [(b &&& 0xF0#8) ||| ctlNibble c false true, (b &&& 0xF0#8) ||| ctlNibble c false false,
          ((b <<< 4) &&& 0xF0#8) ||| ctlNibble c false true, ((b <<< 4) &&& 0xF0#8) ||| ctlNibble c false false] ∧
      bytesOf (eventsOf c (.data b)) =
        [(b &&& 0xF0#8) ||| ctlNibble c true true, (b &&& 0xF0#8) ||| ctlNibble c true false,
          ((b <<< 4) &&& 0xF0#8) ||| ctlNibble c true true, ((b <<< 4) &&& 0xF0#8) ||| ctlNibble c true false]

/-- R78: for every grouping `g` the transactions of a byte concatenate to its four frames, so no request's byte stream
depends on the grouping. -/
def Obligations.GroupingKeepsTheByteStream : Prop :=
  ∀ (c : Config) (g : Grouping),
    (∀ b : Byte, bytesOf (eventsOf { c with group := g } (.cmd b)) = enc c b false ∧
      bytesOf (eventsOf { c with group := g } (.data b)) = enc c b true) ∧
    ∀ i : Instr, bytesOf (eventsOf { c with group := g } i) = bytesOf (eventsOf c i)

/-- R77, R63: the transactions of CMD and DATA under each grouping. -/
def Obligations.GroupingTable : Prop :=
  ∀ (c : Config) (b : Byte),
    let x := enc c b false
    let y := enc c b true
    (c.group = .source → eventsOf c (.cmd b) = [.xfer (x.take 2), .xfer (x.drop 2)] ∧ eventsOf c (.data b) = [.xfer y]) ∧
      (c.group = .perNibble → eventsOf c (.cmd b) = [.xfer (x.take 2), .xfer (x.drop 2)] ∧
        eventsOf c (.data b) = [.xfer (y.take 2), .xfer (y.drop 2)]) ∧
      (c.group = .perByteOp → eventsOf c (.cmd b) = [.xfer x] ∧ eventsOf c (.data b) = [.xfer y]) ∧
      (c.group = .perFrame → eventsOf c (.cmd b) = x.map (fun f => .xfer [f]) ∧
        eventsOf c (.data b) = y.map (fun f => .xfer [f]))

/-- R80: every frame stands in a pair that differs only in the enable bit, first set, then cleared. -/
def Obligations.EnablePulsePairing : Prop :=
  ∀ (c : Config) (i : Instr), c.wf = true →
    ∃ pairs : List (Byte × Byte),
      bytesOf (eventsOf c i) = pairs.flatMap (fun p => [p.1, p.2]) ∧
        ∀ p ∈ pairs, enLine c p.1 = true ∧ enLine c p.2 = false ∧
          ∀ k : Nat, k ≠ c.posEn.val → p.1.getLsbD k = p.2.getLsbD k

/-- R81: the register-select line of every frame of every request. -/
def Obligations.RegisterSelectIsOneExactlyForData : Prop :=
  ∀ c : Config, c.wf = true →
    (∀ b : Byte, ∀ f ∈ bytesOf (eventsOf c (.cmd b)), rsLine c f = false) ∧
      (∀ (r : BitVec 1) (k : Byte), ∀ f ∈ bytesOf (eventsOf c (.setcur r k)), rsLine c f = false) ∧
      (∀ f ∈ bytesOf (eventsOf c .init), rsLine c f = false) ∧
      (∀ b : Byte, ∀ f ∈ bytesOf (eventsOf c (.data b)), rsLine c f = true)

/-- R82: the read/write line and the backlight line of every frame. -/
def Obligations.ReadWriteAndBacklightAreConstant : Prop :=
  ∀ (c : Config) (i : Instr), c.wf = true →
    ∀ f ∈ bytesOf (eventsOf c i), rwLine c f = c.rwW ∧ blLine c f = c.bl

/-- R61: the control nibbles of the frames each request sends under the default parameters. -/
def Obligations.OnlyFourControlNibblesAreSent : Prop :=
  ∀ (n : Nat) (i : Instr), ∀ f ∈ bytesOf (eventsOf { cols := n } i),
    f &&& 0x0F#8 = 0x0C#8 ∨ f &&& 0x0F#8 = 0x08#8 ∨ f &&& 0x0F#8 = 0x0D#8 ∨ f &&& 0x0F#8 = 0x09#8

/-- R45: 1 to 4 bytes per transaction under every grouping, and the table for `SOURCE`. -/
def Obligations.TransactionWidths : Prop :=
  (∀ (c : Config) (i : Instr), ∀ bs, Event.xfer bs ∈ eventsOf c i → 1 ≤ bs.length ∧ bs.length ≤ 4) ∧
    ∀ c : Config, c.group = .source →
      (∀ b : Byte, (eventsOf c (.cmd b)).map (fun e => (eventBytes e).length) = [2, 2]) ∧
      (∀ (r : BitVec 1) (k : Byte), (eventsOf c (.setcur r k)).map (fun e => (eventBytes e).length) = [2, 2]) ∧
      (∀ b : Byte, (eventsOf c (.data b)).map (fun e => (eventBytes e).length) = [4]) ∧
      ((eventsOf c .init).filter isXfer).map (fun e => (eventBytes e).length) = List.replicate 16 2

/-! ### SETCUR and INIT -/

/-- R89, R90, R91: SETCUR sends the command `(base + col) mod 256`; the wrap cases of R91's table. -/
def Obligations.SetcurSendsBasePlusColumn : Prop :=
  ∀ (c : Config) (col : Byte), c.wf = true →
    (eventsOf c (.setcur 0#1 col) = eventsOf c (.cmd (BitVec.ofNat 8 ((0x80 + col.toNat) % 256)))) ∧
      (eventsOf c (.setcur 1#1 col) = eventsOf c (.cmd (BitVec.ofNat 8 ((0xC0 + col.toNat) % 256)))) ∧
      (col.toNat < 0x80 → (cursorCommand c 0#1 col).toNat = 0x80 + col.toNat) ∧
      (0x80 ≤ col.toNat → (cursorCommand c 0#1 col).toNat = col.toNat - 0x80) ∧
      (col.toNat < 0x40 → (cursorCommand c 1#1 col).toNat = 0xC0 + col.toNat) ∧
      (0x40 ≤ col.toNat → (cursorCommand c 1#1 col).toNat = col.toNat - 0x40)

/-- R92: SETCUR does what CMD of its command byte does, event for event and state for state. -/
def Obligations.SetcurActsAsCmd : Prop :=
  ∀ (row : BitVec 1) (col : Byte) (s : State), exec (.setcur row col) s = exec (.cmd (cursorCommand s.cfg row col)) s

/-- R113: INIT's twenty events and its 32 frames under the default parameters. -/
def Obligations.InitEventsUnderDefaults : Prop :=
  ∀ n : Nat, (eventsOf { cols := n } .init =
    [.wait 50000,
      .xfer [0x0C#8, 0x08#8], .xfer [0x3C#8, 0x38#8], .wait 5000,
      .xfer [0x0C#8, 0x08#8], .xfer [0x3C#8, 0x38#8], .wait 1000,
      .xfer [0x0C#8, 0x08#8], .xfer [0x3C#8, 0x38#8], .xfer [0x0C#8, 0x08#8], .xfer [0x2C#8, 0x28#8],
      .xfer [0x2C#8, 0x28#8], .xfer [0x8C#8, 0x88#8], .xfer [0x0C#8, 0x08#8], .xfer [0xCC#8, 0xC8#8],
      .xfer [0x0C#8, 0x08#8], .xfer [0x6C#8, 0x68#8], .xfer [0x0C#8, 0x08#8], .xfer [0x1C#8, 0x18#8],
      .wait 5000]) ∧
    bytesOf (eventsOf { cols := n } .init) =
      [0x0C#8, 0x08#8, 0x3C#8, 0x38#8, 0x0C#8, 0x08#8, 0x3C#8, 0x38#8, 0x0C#8, 0x08#8, 0x3C#8, 0x38#8,
        0x0C#8, 0x08#8, 0x2C#8, 0x28#8, 0x2C#8, 0x28#8, 0x8C#8, 0x88#8, 0x0C#8, 0x08#8, 0xCC#8, 0xC8#8,
        0x0C#8, 0x08#8, 0x6C#8, 0x68#8, 0x0C#8, 0x08#8, 0x1C#8, 0x18#8]

/-- R101, R103, R104: INIT's commands and waits in order, for any grouping; each wait meets its minimum; there is no
other wait. -/
def Obligations.InitWaitsStandWhereMandated : Prop :=
  ∀ c : Config, c.wf = true →
    let C := fun b : Byte => eventsOf c (.cmd b)
    eventsOf c .init =
        [.wait c.tPowerUs] ++ C 0x03#8 ++ [.wait c.tG1Us] ++ C 0x03#8 ++ [.wait c.tG2Us] ++ C 0x03#8 ++ C 0x02#8 ++
          C 0x28#8 ++ C 0x0C#8 ++ C 0x06#8 ++ C 0x01#8 ++ [.wait c.tClrUs] ∧
      40000 ≤ c.tPowerUs ∧ 4100 ≤ c.tG1Us ∧ 100 ≤ c.tG2Us ∧ 1600 ≤ c.tClrUs ∧
      ∀ b us, Event.wait us ∉ C b

/-- R107: INIT's counts under each grouping. -/
def Obligations.InitCounts : Prop :=
  ∀ c : Config,
    (bytesOf (eventsOf c .init)).length = 32 ∧
      (eventsOf c .init).countP (fun e => !isXfer e) = 4 ∧
      (c.group = .source → xferCount (eventsOf c .init) = 16 ∧ (eventsOf c .init).length = 20) ∧
      (c.group = .perNibble → xferCount (eventsOf c .init) = 16 ∧ (eventsOf c .init).length = 20) ∧
      (c.group = .perByteOp → xferCount (eventsOf c .init) = 8 ∧ (eventsOf c .init).length = 12) ∧
      (c.group = .perFrame → xferCount (eventsOf c .init) = 32 ∧ (eventsOf c .init).length = 36)

/-- R106: INIT's transactions are exactly those of its eight commands, in order, with no other frame and no frame with
RS = 1. -/
def Obligations.InitSendsItsEightCommandsInOrder : Prop :=
  ∀ c : Config, c.wf = true →
    (eventsOf c .init).filter isXfer =
        [0x03#8, 0x03#8, 0x03#8, 0x02#8, 0x28#8, 0x0C#8, 0x06#8, 0x01#8].flatMap (fun b => eventsOf c (.cmd b)) ∧
      ∀ f ∈ bytesOf (eventsOf c .init), rsLine c f = false

/-- R108, R126: the ghost `CTRL` while INIT runs: at acceptance; when the last frame of the third 0x03 (12 frames in),
of 0x02 (16) and of 0x06 (28) is delivered; when the last wait completes; and at a failure. -/
def Obligations.CtrlMovesAtInitsPoints : Prop :=
  (∀ s t : State, s.phase = .idle → exec .init s = .next t → t.ctrl = .poweredOnUnknown) ∧
    ∀ (s t : State) (k : Nat), s.phase = .busy → s.eidx.toNat = k → k < (eventsOf s.cfg .init).length →
      exec .init s = .next t →
      let frames := (bytesOf ((eventsOf s.cfg .init).take (k + 1))).length
      t.ctrl =
        if t.status = .failTransport ∧ t.phase = .idle then .poweredOnUnknown
        else if k + 1 = (eventsOf s.cfg .init).length then .clearedReady
        else if frames = 12 then .eightBitProbed
        else if frames = 16 then .fourBitCommitted
        else if frames = 28 then .configured
        else s.ctrl

/-! ### What each request does -/

/-- R25, R108, R130: an idle block accepts every request: all four, whatever the block or the display went through. -/
def Obligations.EveryRequestIsAcceptedWhenIdle : Prop :=
  ∀ (i : Instr) (s : State), s.phase = .idle →
    exec i s = .next { s with
      phase := .busy, eidx := 0#6, status := .none
      ctrl := if i = .init then .poweredOnUnknown else s.ctrl }

/-- R75, R27, R37, R47: `CMD b` under `SOURCE` and `PER_NIBBLE`: its first event sends and latches the high nibble, its
second the low nibble, each by one two-byte transaction, and then the request completes. -/
def Obligations.CmdSendsHighThenLowNibble : Prop :=
  ∀ (b : Byte) (s : State), s.cfg.wf = true → s.phase = .busy → s.cfg.group = .source ∨ s.cfg.group = .perNibble →
    let hi1 := (b &&& 0xF0#8) ||| ctlNibble s.cfg false true
    let hi0 := (b &&& 0xF0#8) ||| ctlNibble s.cfg false false
    let lo1 := ((b <<< 4) &&& 0xF0#8) ||| ctlNibble s.cfg false true
    let lo0 := ((b <<< 4) &&& 0xF0#8) ||| ctlNibble s.cfg false false
    (s.eidx = 0#6 → nextAnswer s = .ok →
        exec (.cmd b) s = .next { s with
          eidx := 1#6, port := hi0, latched := s.latched ++ [⟨false, hiNibble b⟩]
          log := s.log ++ [.memWrite 0x27#7 [hi1, hi0] .ok [hi1, hi0]]
          answers := s.answers.tail, calls := s.calls + 1 }) ∧
      (s.eidx = 1#6 → nextAnswer s = .ok →
        exec (.cmd b) s = .next { s with
          eidx := 2#6, port := lo0, latched := s.latched ++ [⟨false, loNibble b⟩]
          log := s.log ++ [.memWrite 0x27#7 [lo1, lo0] .ok [lo1, lo0]]
          answers := s.answers.tail, calls := s.calls + 1 }) ∧
      (s.eidx = 2#6 →
        exec (.cmd b) s = .next { s with
          phase := .idle, status := .ok, log := s.log ++ [.response .ok] })

/-- R76, R27, R37, R47: `DATA b` under `SOURCE` and `PER_BYTE_OP`: one four-byte transaction latches both nibbles as
data, and then the request completes. -/
def Obligations.DataSendsOneTransactionOfFourFrames : Prop :=
  ∀ (b : Byte) (s : State), s.cfg.wf = true → s.phase = .busy → s.cfg.group = .source ∨ s.cfg.group = .perByteOp →
    let hi1 := (b &&& 0xF0#8) ||| ctlNibble s.cfg true true
    let hi0 := (b &&& 0xF0#8) ||| ctlNibble s.cfg true false
    let lo1 := ((b <<< 4) &&& 0xF0#8) ||| ctlNibble s.cfg true true
    let lo0 := ((b <<< 4) &&& 0xF0#8) ||| ctlNibble s.cfg true false
    (s.eidx = 0#6 → nextAnswer s = .ok →
        exec (.data b) s = .next { s with
          eidx := 1#6, port := lo0, latched := s.latched ++ [⟨true, hiNibble b⟩, ⟨true, loNibble b⟩]
          log := s.log ++ [.memWrite 0x27#7 [hi1, hi0, lo1, lo0] .ok [hi1, hi0, lo1, lo0]]
          answers := s.answers.tail, calls := s.calls + 1 }) ∧
      (s.eidx = 1#6 →
        exec (.data b) s = .next { s with
          phase := .idle, status := .ok, log := s.log ++ [.response .ok] })

/-- R89, R90, R27, R37, R47: `SETCUR row, col` under `SOURCE` and `PER_NIBBLE`: the two transactions of its command
byte, and then the request completes. -/
def Obligations.SetcurSendsItsCommandByte : Prop :=
  ∀ (row : BitVec 1) (col : Byte) (s : State), s.cfg.wf = true → s.phase = .busy →
    s.cfg.group = .source ∨ s.cfg.group = .perNibble →
    let a : Byte := (if row = 0#1 then 0x80#8 else 0xC0#8) + col
    let hi1 := (a &&& 0xF0#8) ||| ctlNibble s.cfg false true
    let hi0 := (a &&& 0xF0#8) ||| ctlNibble s.cfg false false
    let lo1 := ((a <<< 4) &&& 0xF0#8) ||| ctlNibble s.cfg false true
    let lo0 := ((a <<< 4) &&& 0xF0#8) ||| ctlNibble s.cfg false false
    (s.eidx = 0#6 → nextAnswer s = .ok →
        exec (.setcur row col) s = .next { s with
          eidx := 1#6, port := hi0, latched := s.latched ++ [⟨false, hiNibble a⟩]
          log := s.log ++ [.memWrite 0x27#7 [hi1, hi0] .ok [hi1, hi0]]
          answers := s.answers.tail, calls := s.calls + 1 }) ∧
      (s.eidx = 1#6 → nextAnswer s = .ok →
        exec (.setcur row col) s = .next { s with
          eidx := 2#6, port := lo0, latched := s.latched ++ [⟨false, loNibble a⟩]
          log := s.log ++ [.memWrite 0x27#7 [lo1, lo0] .ok [lo1, lo0]]
          answers := s.answers.tail, calls := s.calls + 1 }) ∧
      (s.eidx = 2#6 →
        exec (.setcur row col) s = .next { s with
          phase := .idle, status := .ok, log := s.log ++ [.response .ok] })

/-- R100, R101, R105, R113: INIT's events, one by one under any grouping: event `k` of its list is performed and `EIDX`
goes on; after the last, the request completes. `CTRL` is the subject of another statement. -/
def Obligations.InitPerformsItsEventsInOrder : Prop :=
  ∀ s : State, s.cfg.wf = true → s.phase = .busy →
    (∀ us, (eventsOf s.cfg .init)[s.eidx.toNat]? = some (.wait us) →
        ∃ c, exec .init s = .next { s with
          eidx := s.eidx + 1#6, ctrl := c, log := s.log ++ [.delay us] }) ∧
      (∀ bs, (eventsOf s.cfg .init)[s.eidx.toNat]? = some (.xfer bs) → nextAnswer s = .ok →
        ∃ c, exec .init s = .next { s with
          eidx := s.eidx + 1#6, ctrl := c, port := portAfter bs s.port, latched := (deliver bs s).latched
          log := s.log ++ [.memWrite 0x27#7 bs .ok bs]
          answers := s.answers.tail, calls := s.calls + 1 }) ∧
      (s.eidx.toNat = (eventsOf s.cfg .init).length →
        exec .init s = .next { s with
          phase := .idle, status := .ok, log := s.log ++ [.response .ok] })

/-- R25, R27, R37: an `Xfer` that the transport answers `ok`, for every request and grouping. -/
def Obligations.CompletedTransactionAdvancesTheSequencer : Prop :=
  ∀ (i : Instr) (s : State) (bs : List Byte),
    s.phase = .busy → (eventsOf s.cfg i)[s.eidx.toNat]? = some (.xfer bs) → nextAnswer s = .ok →
    ∃ c, exec i s = .next { s with
      eidx := s.eidx + 1#6, port := portAfter bs s.port, ctrl := c, latched := (deliver bs s).latched
      log := s.log ++ [.memWrite s.cfg.addr7 bs .ok bs]
      answers := s.answers.tail, calls := s.calls + 1 } ∧ (i ≠ .init → c = s.ctrl)

/-- R128, R127: a `Wait` event has exactly one outcome: it completes, and `EIDX` goes up by 1. -/
def Obligations.WaitCompletesAndAdvances : Prop :=
  ∀ (i : Instr) (s : State) (us : Nat),
    s.phase = .busy → (eventsOf s.cfg i)[s.eidx.toNat]? = some (.wait us) →
    ∃ c, exec i s = .next { s with eidx := s.eidx + 1#6, ctrl := c, log := s.log ++ [.delay us] } ∧
      (i ≠ .init → c = s.ctrl)

/-- R115, R118, R126: TransportFailure, with the delivered part of the transaction. -/
def Obligations.TransportFailureEndsTheRequest : Prop :=
  ∀ (i : Instr) (s : State) (bs : List Byte) (j : Nat),
    s.phase = .busy → (eventsOf s.cfg i)[s.eidx.toNat]? = some (.xfer bs) → nextAnswer s = .fail j →
    exec i s = .next { s with
      phase := .idle, status := .failTransport, ctrl := .poweredOnUnknown
      port := portAfter (bs.take j) s.port, latched := (deliver (bs.take j) s).latched
      log := s.log ++ [.memWrite s.cfg.addr7 bs .fail (bs.take j), .response .failTransport]
      answers := s.answers.tail, calls := s.calls + 1 }

/-- R119 outcome 3: a call that never returns leaves no further step, for every request. -/
def Obligations.HungTransportIsStuck : Prop :=
  ∀ (i : Instr) (s : State) (bs : List Byte),
    s.phase = .busy → (eventsOf s.cfg i)[s.eidx.toNat]? = some (.xfer bs) → nextAnswer s = .never →
    exec i s = .fault .transportNeverReturns

/-- R25, R29: after the last event the request completes and answers `OK`. -/
def Obligations.LastEventIsFollowedByOk : Prop :=
  ∀ (i : Instr) (s : State), s.phase = .busy → s.eidx.toNat = (eventsOf s.cfg i).length →
    exec i s = .next { s with phase := .idle, status := .ok, log := s.log ++ [.response .ok] }

/-- R47 items 1 and 2, R37: what one delivered byte does to the port and the latch; bytes take effect in delivery order.
That the latch has the new byte's RS level also where nibble or RS differ from what the port held is the model's reading:
log 9. -/
def Obligations.FallingEnableLatchesOneNibble : Prop :=
  ∀ (b : Byte) (s : State),
    (∀ bs, deliver (bs ++ [b]) s = deliverByte b (deliver bs s)) ∧ (deliverByte b s).port = b ∧
      (enLine s.cfg s.port = true → enLine s.cfg b = false →
        (∃ n, (deliverByte b s).latched = s.latched ++ [⟨rsLine s.cfg b, n⟩]) ∧
          (hiNibble b = hiNibble s.port → rsLine s.cfg b = rsLine s.cfg s.port →
            (deliverByte b s).latched = s.latched ++ [⟨rsLine s.cfg b, hiNibble b⟩])) ∧
      (enLine s.cfg b = true ∨ enLine s.cfg s.port = false → (deliverByte b s).latched = s.latched)

/-- What no request touches, in any step that answers a next state: the configuration, the request word, what the host
presents, and the reset line; the log only grows; without a transaction the port and the latch stay. -/
def Obligations.RequestFrame : Prop :=
  ∀ (i : Instr) (s t : State), exec i s = .next t →
    t.cfg = s.cfg ∧ t.req = s.req ∧ t.requests = s.requests ∧ t.resets = s.resets ∧
      ∃ new, t.log = s.log ++ new ∧ t.port = portAfter (deliveredSeen new) s.port ∧
        (deliveredSeen new = [] → t.latched = s.latched) ∧
        ((∀ o ∈ new, ∀ a bs r d, o ≠ .memWrite a bs r d) → t.answers = s.answers ∧ t.calls = s.calls)

/-! ### Whole requests -/

/-- R25, R47, R49, R51, R84, R106, R108: from an idle block, with the transport answering `ok` and no reset meanwhile, every
request runs to its end: one step accepts it, one performs each event, one completes it. -/
def Obligations.RequestRunsToCompletion : Prop :=
  ∀ (i : Instr) (s : State) (rest : List ReqWord) (later : List TransportAnswer),
    s.cfg.wf = true → s.phase = .idle → NoReset ((eventsOf s.cfg i).length + 2) s →
    s.requests = encode i :: rest →
    s.answers = List.replicate (xferCount (eventsOf s.cfg i)) .ok ++ later →
    runSteps ((eventsOf s.cfg i).length + 2) s = .next { s with
      req := encode i, requests := rest
      eidx := BitVec.ofNat 6 (eventsOf s.cfg i).length, status := .ok
      port := portAfter (bytesOf (eventsOf s.cfg i)) s.port
      ctrl := if i = .init then .clearedReady else s.ctrl
      latched := s.latched ++ operationLatches s.cfg i
      log := s.log ++ [.request (encode i)] ++ (eventsOf s.cfg i).map (doneObs 0x27#7) ++ [.response .ok]
      resets := s.resets.drop ((eventsOf s.cfg i).length + 2)
      answers := later, calls := s.calls + xferCount (eventsOf s.cfg i) }

/-- R115, R118, R120, R123, R126: where the transport fails at event `k`, the events before it completed in full, it
delivered a leading part, and no later one is performed. -/
def Obligations.FailedRequestStopsAtItsEvent : Prop :=
  ∀ (i : Instr) (s : State) (rest : List ReqWord) (later : List TransportAnswer) (k j : Nat) (bs : List Byte),
    s.cfg.wf = true → s.phase = .idle → NoReset (k + 2) s → s.requests = encode i :: rest →
    (eventsOf s.cfg i)[k]? = some (.xfer bs) →
    s.answers = List.replicate (xferCount ((eventsOf s.cfg i).take k)) .ok ++ .fail j :: later →
    runSteps (k + 2) s = .next { s with
      req := encode i, requests := rest, phase := .idle
      eidx := BitVec.ofNat 6 k, status := .failTransport, ctrl := .poweredOnUnknown
      port := portAfter (bytesOf ((eventsOf s.cfg i).take k) ++ bs.take j) s.port
      latched := (deliver (bytesOf ((eventsOf s.cfg i).take k) ++ bs.take j) s).latched
      resets := s.resets.drop (k + 2)
      log := s.log ++ [.request (encode i)] ++ ((eventsOf s.cfg i).take k).map (doneObs 0x27#7) ++
        [.memWrite 0x27#7 bs .fail (bs.take j), .response .failTransport]
      answers := later, calls := s.calls + xferCount ((eventsOf s.cfg i).take k) + 1 }

/-! ### Whole-machine rules -/

/-- R16: "No request writes them and no reset changes them". -/
def Obligations.NoStepWritesTheConfiguration : Prop :=
  ∀ s t : State, step s = .next t → t.cfg = s.cfg

/-- R19: `REQ` is written only when a word is taken by an idle block, or by a reset. -/
def Obligations.RequestWordHoldsStill : Prop :=
  ∀ s t : State, step s = .next t →
    t.req = s.req ∨
      (resetLow s = true ∧ s.phase = .idle ∧ s.requests = t.req :: t.requests) ∨
      (resetLow s = false ∧ t.req = 0x0000#16)

/-- R22: `EIDX` becomes 0 when a request is accepted, and goes up by exactly 1 when an event completes; it cannot wrap. -/
def Obligations.EventIndexCountsUpByOne : Prop :=
  ∀ s t : State, s.Inv → step s = .next t → t.phase = .busy →
    (s.phase = .idle → t.eidx = 0#6) ∧ (s.phase = .busy → t.eidx.toNat = s.eidx.toNat + 1)

/-- R29: a step gives at most one response: none while the block stays or becomes BUSY or is reset; the one given is the
final `STATUS`, never `NONE`, and leaves the block idle. -/
def Obligations.ResponseIsTheFinalStatus : Prop :=
  ∀ s t : State, step s = .next t →
    responsesSeen t.log = responsesSeen s.log ∨
      (responsesSeen t.log = responsesSeen s.log ++ [t.status] ∧ t.status ≠ .none ∧ t.phase = .idle ∧
        resetLow s = true)

/-- R26, R53: while BUSY, what the request port presents has no effect on the running operation. -/
def Obligations.PresentedWordWaitsWhileBusy : Prop :=
  ∀ (s : State) (words : List ReqWord), s.phase = .busy →
    (∀ t, step s = .next t → t.requests = s.requests ∧
      step { s with requests := words } = .next { t with requests := words }) ∧
      (∀ f, step s = .fault f → step { s with requests := words } = .fault f)

/-- R31, R32, R14: the block never reads the expander's port, the ghost `CTRL` or the latched nibbles: what it does is
the same whatever they hold. -/
def Obligations.BlockNeverReadsPortOrCtrl : Prop :=
  ∀ (s : State) (p : Byte) (c : Ctrl) (l : List Latch),
    outcomeView (step { s with port := p, ctrl := c, latched := l }) = outcomeView (step s)

/-- R36, R27: every transport call of a step goes to `P_ADDR7` = 0x27. -/
def Obligations.OnlyTheExpanderIsAddressed : Prop :=
  ∀ s t : State, step s = .next t →
    ∃ new, t.log = s.log ++ new ∧ ∀ a bs r d, Obs.memWrite a bs r d ∈ new → a = 0x27#7 ∧ d <+: bs

/-- R32, R106, R108: `CTRL` becomes Cleared-Ready only by INIT's last event; R155, R141: under the launch premises an idle
block's `CTRL` is Cleared-Ready. -/
def Obligations.OnlyInitMakesTheDisplayReady : Prop :=
  (∀ s t : State, step s = .next t → t.ctrl = .clearedReady → s.ctrl ≠ .clearedReady →
      s.phase = .busy ∧ decode s.req = .op .init ∧ s.eidx.toNat + 1 = (eventsOf s.cfg .init).length) ∧
    ∀ (h : HostAccount) (s : State), s.Inv → s.phase = .idle → DisplayDefined h s → s.ctrl = .clearedReady

/-! ### PRINT -/

/-- R96: PRINT of the empty text presents no request, performs no event and returns `OK`. -/
def Obligations.PrintOfEmptyTextDoesNothing : Prop :=
  printWords [] = [] ∧ ∀ s : State, printText [] s = .next (s, .response .ok)

/-- R94, R29, R26, R147: from every state of the invariant, idle or BUSY, whatever resets come, a presented word has its
response, with the block then idle; or a reset abandoned the request after it was taken (log 14: no response comes); or
the transport never returns and no reset is sampled in that step (the model's choice: log 7, log 19). The bound
on the host's waiting is never reached. -/
def Obligations.IssuedRequestIsAnsweredOrAbandoned : Prop :=
  ∀ (w : ReqWord) (s : State), s.Inv →
    (∃ t, issueRequest w s = .next (t, .response t.status) ∧ t.status ≠ .none ∧ t.phase = .idle ∧
        t.requests = s.requests) ∨
      (∃ t, issueRequest w s = .next (t, .abandoned) ∧ t.phase = .idle ∧ t.requests = s.requests) ∨
      issueRequest w s = .fault .transportNeverReturns

/-- R94, R97: with the transport answering `ok` and no reset meanwhile, PRINT performs the events of DATA of each code, in
order, with an `OK` after each, and returns `OK`. -/
def Obligations.PrintSendsEachCodeInOrder : Prop :=
  ∀ (text : List Byte) (s : State) (later : List TransportAnswer),
    s.cfg.wf = true → s.phase = .idle →
    NoReset (text.map fun c => (eventsOf s.cfg (.data c)).length + 2).sum s →
    s.answers = List.replicate (text.map fun c => xferCount (eventsOf s.cfg (.data c))).sum .ok ++ later →
    ∃ t, printText text s = .next (t, .response .ok) ∧
      t.log = s.log ++ text.flatMap (fun c =>
        .request (encode (.data c)) :: (eventsOf s.cfg (.data c)).map (doneObs 0x27#7) ++ [.response .ok]) ∧
      deliveredSeen t.log = deliveredSeen s.log ++ text.flatMap (fun c => enc s.cfg c true) ∧
      t.latched = s.latched ++ text.flatMap (byteLatches true) ∧
      t.phase = .idle ∧ t.cfg = s.cfg ∧ t.ctrl = s.ctrl ∧ t.requests = s.requests ∧ t.answers = later ∧
      t.resets = s.resets.drop (text.map fun c => (eventsOf s.cfg (.data c)).length + 2).sum

/-- R95: where DATA of one code fails, and no reset comes meanwhile, PRINT returns `FAIL_TRANSPORT` and no frame of a later
code is sent. -/
def Obligations.PrintStopsAtTheFirstFailure : Prop :=
  ∀ (before after : List Byte) (c : Byte) (s : State) (later : List TransportAnswer) (k j : Nat) (bs : List Byte),
    s.cfg.wf = true → s.phase = .idle →
    NoReset ((before.map fun x => (eventsOf s.cfg (.data x)).length + 2).sum + (k + 2)) s →
    (eventsOf s.cfg (.data c))[k]? = some (.xfer bs) →
    s.answers =
      List.replicate ((before.map fun x => xferCount (eventsOf s.cfg (.data x))).sum + k) .ok ++ .fail j :: later →
    ∃ t, printText (before ++ c :: after) s = .next (t, .response .failTransport) ∧ t.answers = later ∧
      t.requests = s.requests ∧ t.phase = .idle ∧ t.status = .failTransport ∧
      responsesSeen t.log = responsesSeen s.log ++ List.replicate before.length .ok ++ [.failTransport] ∧
      ∃ part, part <+: enc s.cfg c true ∧
        deliveredSeen t.log = deliveredSeen s.log ++ before.flatMap (fun x => enc s.cfg x true) ++ part

/-! ### Timing -/

/-- R151, R152 (informative; general knowledge, log 15): the least durations under the defaults. -/
def Obligations.LeastDurationsUnderDefaults : Prop :=
  ∀ (n : Nat) (b : Byte) (r : BitVec 1),
    operationMicros { cols := n } (.cmd b) = 540 ∧ operationMicros { cols := n } (.setcur r b) = 540 ∧
      operationMicros { cols := n } (.data b) = 450 ∧ operationMicros { cols := n } .init = 65320
end

