-- ==== Sys2Proof/Laws/Decode.lean ====
section
/-! SUPPORT. The fields of an encoded request, and what it means that a word decodes to a request. -/

namespace Sys2Proof

/-- The `PAY` field of a word made of a high and a low byte. -/
theorem payField_append (h : Byte) (b : Byte) : payField (h ++ b) = b := by
  unfold payField; exact BitVec.extractLsb'_append_eq_right

@[simp] theorem payField_cmd (b : Byte) : payField (0x1#4 ++ 0x0#4 ++ b) = b := payField_append _ b

@[simp] theorem payField_data (b : Byte) : payField (0x2#4 ++ 0x0#4 ++ b) = b := payField_append _ b

@[simp] theorem payField_setcur (row : BitVec 1) (col : Byte) : payField (0x3#4 ++ 0x0#3 ++ row ++ col) = col :=
  payField_append (0x3#4 ++ 0x0#3 ++ row) col

/-- A bit of the high byte of a word. -/
theorem append_highBit (h b : Byte) (k : Nat) : (h ++ b).getLsbD (8 + k) = h.getLsbD k := by
  rw [BitVec.getLsbD_append]; simp

/-- The opcode of a word made of a high and a low byte is the high byte's high nibble. -/
theorem opcField_append (h b : Byte) : opcField (h ++ b) = h.extractLsb' 4 4 := by
  apply BitVec.eq_of_getLsbD_eq
  intro i hi
  simp [opcField, hi, show 12 + i = 8 + (4 + i) by omega, append_highBit]

theorem auxField_append (h b : Byte) : auxField (h ++ b) = h.extractLsb' 0 4 := by
  apply BitVec.eq_of_getLsbD_eq
  intro i hi
  simp [auxField, hi, append_highBit]

theorem auxHighField_append (h b : Byte) : auxHighField (h ++ b) = h.extractLsb' 1 3 := by
  apply BitVec.eq_of_getLsbD_eq
  intro i hi
  simp [auxHighField, hi, show 9 + i = 8 + (1 + i) by omega, append_highBit]

theorem rowField_append (h b : Byte) : rowField (h ++ b) = h.extractLsb' 0 1 := by
  apply BitVec.eq_of_getLsbD_eq
  intro i hi
  simp [rowField, hi, append_highBit]

/-! ### The fields of any word, as numbers -/

theorem opcField_toNat (w : ReqWord) : (opcField w).toNat = w.toNat / 4096 := by
  have := w.isLt
  simp [opcField, BitVec.extractLsb'_toNat, Nat.shiftRight_eq_div_pow]; omega

theorem auxField_toNat (w : ReqWord) : (auxField w).toNat = w.toNat / 256 % 16 := by
  simp [auxField, BitVec.extractLsb'_toNat, Nat.shiftRight_eq_div_pow]

theorem auxHighField_toNat (w : ReqWord) : (auxHighField w).toNat = w.toNat / 256 % 16 / 2 := by
  simp [auxHighField, BitVec.extractLsb'_toNat, Nat.shiftRight_eq_div_pow]; omega

theorem rowField_toNat (w : ReqWord) : (rowField w).toNat = w.toNat / 256 % 2 := by
  simp [rowField, BitVec.extractLsb'_toNat, Nat.shiftRight_eq_div_pow]

theorem payField_toNat (w : ReqWord) : (payField w).toNat = w.toNat % 256 := by
  simp [payField, BitVec.extractLsb'_toNat]

end Sys2Proof
end

