-- ==== Sys2Proof/Laws/Frames.lean ====
section
/-! SUPPORT. What the frame functions give: the four lines of a frame, the nibble of a frame, the byte stream and the
length of every operation's event list. -/

namespace Sys2Proof.Machine

/-! ### Configuration -/

theorem wf_positions {c : Config} (h : c.wf = true) : [c.posRs, c.posRw, c.posEn, c.posBl].Nodup := by
  simp only [Config.wf, Bool.and_eq_true] at h
  exact of_decide_eq_true h.1.2

theorem wf_addr7 {c : Config} (h : c.wf = true) : c.addr7 = 0x27#7 := by
  simp only [Config.wf, Config.fixedOk, Bool.and_eq_true, decide_eq_true_eq] at h
  exact h.1.1.1.1.1.1

theorem wf_row0Base {c : Config} (h : c.wf = true) : c.row0Base = 0x80#8 := by
  simp only [Config.wf, Config.fixedOk, Bool.and_eq_true, decide_eq_true_eq] at h
  exact h.1.1.1.1.2

theorem wf_row1Base {c : Config} (h : c.wf = true) : c.row1Base = 0xC0#8 := by
  simp only [Config.wf, Config.fixedOk, Bool.and_eq_true, decide_eq_true_eq] at h
  exact h.1.1.1.2

theorem wf_waits {c : Config} (h : c.wf = true) :
    40000 ≤ c.tPowerUs ∧ 4100 ≤ c.tG1Us ∧ 100 ≤ c.tG2Us ∧ 1600 ≤ c.tClrUs := by
  simp only [Config.wf, Config.waitsOk, Bool.and_eq_true, decide_eq_true_eq] at h
  exact ⟨h.2.1.1.1, h.2.1.1.2, h.2.1.2, h.2.2⟩

/-! ### The lines of a frame -/

theorem lineAt_bit (level : Bool) (pos : Fin 4) (k : Nat) :
    (lineAt level pos).getLsbD k = (decide (k = pos.val) && level) := by
  have := pos.isLt
  rcases Nat.lt_trichotomy k pos.val with h | h | h
  · simp [lineAt, h, Nat.ne_of_lt h]
  · subst h
    simp [lineAt]; omega
  · have h0 : k - pos.val ≠ 0 := by omega
    simp [lineAt, BitVec.getLsbD_ofBool, Nat.ne_of_gt h, h0]

theorem ctlNibble_bit (c : Config) (rs en : Bool) (k : Nat) :
    (ctlNibble c rs en).getLsbD k =
      ((decide (k = c.posRs.val) && rs) || (decide (k = c.posRw.val) && c.rwW)
        || (decide (k = c.posEn.val) && en) || (decide (k = c.posBl.val) && c.bl)) := by
  simp [ctlNibble, lineAt_bit]

/-- The data field and the control field of a frame never overlap (R72). -/
theorem frame_bit (c : Config) (n : Nibble) (rs en : Bool) (k : Nat) :
    (frame c n rs en).getLsbD k =
      ((decide (4 ≤ k) && n.getLsbD (k - 4)) || (ctlNibble c rs en).getLsbD k) := by
  by_cases h4 : 4 ≤ k
  · by_cases h8 : k < 8
    · simp [frame, h4, h8, Nat.not_lt.mpr h4]
    · have : n.getLsbD (k - 4) = false := BitVec.getLsbD_of_ge _ _ (by omega)
      simp [frame, h8, this]
  · simp [frame, h4]

theorem frame_lowBit (c : Config) (n : Nibble) (rs en : Bool) (p : Fin 4) :
    (frame c n rs en).getLsbD p.val = (ctlNibble c rs en).getLsbD p.val := by
  have := p.isLt
  simp [frame_bit, Nat.not_le.mpr p.isLt]

theorem positions_ne {c : Config} (h : c.wf = true) :
    c.posRs.val ≠ c.posRw.val ∧ c.posRs.val ≠ c.posEn.val ∧ c.posRs.val ≠ c.posBl.val ∧
      c.posRw.val ≠ c.posEn.val ∧ c.posRw.val ≠ c.posBl.val ∧ c.posEn.val ≠ c.posBl.val := by
  have hp := wf_positions h
  simp only [List.nodup_cons, List.mem_cons, List.not_mem_nil, not_or, or_false, Fin.ext_iff] at hp
  tauto

theorem enLine_frame {c : Config} (h : c.wf = true) (n : Nibble) (rs en : Bool) :
    enLine c (frame c n rs en) = en := by
  obtain ⟨h1, h2, h3, h4, h5, h6⟩ := positions_ne h
  simp [enLine, frame_lowBit, ctlNibble_bit, h2.symm, h4.symm, h6]

theorem rsLine_frame {c : Config} (h : c.wf = true) (n : Nibble) (rs en : Bool) :
    rsLine c (frame c n rs en) = rs := by
  obtain ⟨h1, h2, h3, h4, h5, h6⟩ := positions_ne h
  simp [rsLine, frame_lowBit, ctlNibble_bit, h1, h2, h3]

theorem rwLine_frame {c : Config} (h : c.wf = true) (n : Nibble) (rs en : Bool) :
    rwLine c (frame c n rs en) = c.rwW := by
  obtain ⟨h1, h2, h3, h4, h5, h6⟩ := positions_ne h
  simp [rwLine, frame_lowBit, ctlNibble_bit, h1.symm, h4, h5]

theorem blLine_frame {c : Config} (h : c.wf = true) (n : Nibble) (rs en : Bool) :
    blLine c (frame c n rs en) = c.bl := by
  obtain ⟨h1, h2, h3, h4, h5, h6⟩ := positions_ne h
  simp [blLine, frame_lowBit, ctlNibble_bit, h3.symm, h5.symm, h6.symm]

theorem ctlNibble_highBit (c : Config) (rs en : Bool) (k : Nat) (hk : 4 ≤ k) :
    (ctlNibble c rs en).getLsbD k = false := by
  have h1 := c.posRs.isLt
  have h2 := c.posRw.isLt
  have h3 := c.posEn.isLt
  have h4 := c.posBl.isLt
  simp [ctlNibble_bit]; omega

/-- The nibble of a frame (R58). -/
theorem hiNibble_frame (c : Config) (n : Nibble) (rs en : Bool) : hiNibble (frame c n rs en) = n := by
  apply BitVec.eq_of_getLsbD_eq
  intro i hi
  simp [hiNibble, hi, frame_bit, ctlNibble_highBit]

/-! ### The event lists -/

@[simp] theorem bytesOf_nil : bytesOf [] = [] := rfl

@[simp] theorem bytesOf_cons (e : Event) (l : List Event) : bytesOf (e :: l) = eventBytes e ++ bytesOf l := rfl

@[simp] theorem bytesOf_append (l m : List Event) : bytesOf (l ++ m) = bytesOf l ++ bytesOf m :=
  List.flatMap_append

@[simp] theorem enc_length (c : Config) (b : Byte) (rs : Bool) : (enc c b rs).length = 4 := rfl

/-- Every grouping keeps the byte stream (R63). -/
theorem bytesOf_groupFrames (g : Grouping) (k : ByteKind) (a b c d : Byte) :
    bytesOf (groupFrames g [a, b, c, d] k) = [a, b, c, d] := by
  cases g <;> cases k <;> rfl

theorem bytesOf_eventsCmd (c : Config) (b : Byte) : bytesOf (eventsCmd c b) = enc c b false :=
  bytesOf_groupFrames _ _ _ _ _ _

theorem bytesOf_eventsData (c : Config) (b : Byte) : bytesOf (eventsData c b) = enc c b true :=
  bytesOf_groupFrames _ _ _ _ _ _

/-- `E(INIT)` written out by its commands and waits (R101). -/
theorem eventsInit_eq (c : Config) :
    eventsInit c =
      .wait c.tPowerUs :: (eventsCmd c 0x03#8 ++ .wait c.tG1Us :: (eventsCmd c 0x03#8 ++ .wait c.tG2Us ::
        (eventsCmd c 0x03#8 ++ (eventsCmd c 0x02#8 ++ (eventsCmd c 0x28#8 ++ (eventsCmd c 0x0C#8 ++
          (eventsCmd c 0x06#8 ++ (eventsCmd c 0x01#8 ++ [.wait c.tClrUs])))))))) := by
  simp [eventsInit, initSteps, initStepEvents]

theorem bytesOf_eventsInit (c : Config) :
    bytesOf (eventsInit c) = initCommands.flatMap fun b => enc c b false := by
  simp [eventsInit_eq, bytesOf_eventsCmd, eventBytes, initCommands]

/-- How many events a command's list has (R63). -/
def cmdEventCount : Grouping → Nat
  | .source => 2
  | .perNibble => 2
  | .perByteOp => 1
  | .perFrame => 4

theorem eventsCmd_length (c : Config) (b : Byte) : (eventsCmd c b).length = cmdEventCount c.group := by
  unfold eventsCmd; cases c.group <;> rfl

/-- How many events a character's list has (R63). -/
def dataEventCount : Grouping → Nat
  | .source => 1
  | .perNibble => 2
  | .perByteOp => 1
  | .perFrame => 4

theorem eventsData_length (c : Config) (b : Byte) : (eventsData c b).length = dataEventCount c.group := by
  unfold eventsData; cases c.group <;> rfl

theorem eventsInit_length (c : Config) : (eventsInit c).length = 8 * cmdEventCount c.group + 4 := by
  simp only [eventsInit_eq, List.length_cons, List.length_append, eventsCmd_length, List.length_nil]
  omega

/-- No event list has more than 36 events (R21, R107). -/
theorem eventsOf_length_le (c : Config) (i : Instr) : (eventsOf c i).length ≤ 36 := by
  have hc : cmdEventCount c.group ≤ 4 := by cases c.group <;> decide
  cases i with
  | cmd b => exact (eventsCmd_length c b).trans_le (hc.trans (by decide))
  | data b =>
    show (eventsData c b).length ≤ 36
    rw [eventsData_length]; cases c.group <;> decide
  | setcur r k => exact (eventsCmd_length c _).trans_le (hc.trans (by decide))
  | init => exact (eventsInit_length c).trans_le (by omega)

/-- The byte stream of every request: the strobe pairs of the nibbles it latches, in order (R73, R74, R80, R84). -/
theorem bytesOf_eventsOf (c : Config) (i : Instr) :
    bytesOf (eventsOf c i) = (operationLatches c i).flatMap fun l => strobe c l.nibble l.rs := by
  cases i with
  | cmd b => exact bytesOf_eventsCmd c b
  | data b => exact bytesOf_eventsData c b
  | setcur r k => exact bytesOf_eventsCmd c _
  | init => exact bytesOf_eventsInit c

/-- Every frame a request sends is a frame of a nibble it latches (R72, R80). -/
theorem mem_bytesOf_eventsOf {c : Config} {i : Instr} {f : Byte} (h : f ∈ bytesOf (eventsOf c i)) :
    ∃ l ∈ operationLatches c i, ∃ en, f = frame c l.nibble l.rs en := by
  rw [bytesOf_eventsOf, List.mem_flatMap] at h
  obtain ⟨l, hl, hf⟩ := h
  simp only [strobe, List.mem_cons, List.not_mem_nil, or_false] at hf
  rcases hf with hf | hf
  · exact ⟨l, hl, true, hf⟩
  · exact ⟨l, hl, false, hf⟩

/-- The register-select level of every latch: one exactly for DATA (R81). -/
theorem operationLatches_rs {c : Config} {i : Instr} {l : Latch} (h : l ∈ operationLatches c i) :
    l.rs = match i with
      | .data _ => true
      | _ => false := by
  cases i with
  | init =>
    obtain ⟨b, -, hb⟩ := List.mem_flatMap.mp h
    simp only [byteLatches, List.mem_cons, List.not_mem_nil, or_false] at hb
    rcases hb with rfl | rfl <;> rfl
  | _ =>
    simp only [operationLatches, byteLatches, List.mem_cons, List.not_mem_nil, or_false] at h
    rcases h with rfl | rfl <;> rfl

/-- The byte stream of a request ends with the enable line low (R83). -/
theorem bytesOf_eventsOf_last (c : Config) (i : Instr) :
    ∃ n rs, (bytesOf (eventsOf c i)).getLast? = some (frame c n rs false) := by
  rw [bytesOf_eventsOf]
  cases i with
  | cmd b => exact ⟨_, _, rfl⟩
  | data b => exact ⟨_, _, rfl⟩
  | setcur r k => exact ⟨_, _, rfl⟩
  | init => exact ⟨_, _, rfl⟩

/-! ### The source's masks -/

/-- The high nibble's data field is `b & 0xF0` (R64). -/
theorem hiNibble_mask (b : Byte) : (hiNibble b).setWidth 8 <<< 4 = b &&& 0xF0#8 := by revert b; decide +kernel

/-- The low nibble's data field is `(b << 4) & 0xF0` (R64). -/
theorem loNibble_mask (b : Byte) : (loNibble b).setWidth 8 <<< 4 = (b <<< 4) &&& 0xF0#8 := by
  revert b; decide +kernel

/-- What the log shows of completed events delivers their bytes (R14). -/
theorem deliveredSeen_doneObs (a : Addr7) (l : List Event) : deliveredSeen (l.map (doneObs a)) = bytesOf l := by
  simp only [deliveredSeen, bytesOf, List.flatMap_map]
  congr; funext e; cases e <;> rfl

/-- What the log shows of completed events holds no response (R14). -/
theorem responsesSeen_doneObs (a : Addr7) (l : List Event) : responsesSeen (l.map (doneObs a)) = [] := by
  induction l with
  | nil => rfl
  | cons e l ih => cases e <;> simpa [responsesSeen, doneObs, responseSeen] using ih

/-! ### What the host saw -/

theorem hostView_append (a b : List Obs) : hostView (a ++ b) = b.foldl HostView.see (hostView a) := by
  simp [hostView]

/-- Completed events tell the host nothing. -/
theorem hostView_doneObs (a : Addr7) (l : List Event) (v : HostView) :
    (l.map (doneObs a)).foldl HostView.see v = v := by
  induction l with
  | nil => rfl
  | cons e l ih => cases e <;> simpa [doneObs, HostView.see] using ih

end Sys2Proof.Machine
end

