-- ==== Sys2Proof/Laws/State.lean ====
section
/-! SUPPORT. One lemma per field per update of the state, each true by rfl, so that no proof unfolds an operation to read
a field. -/

namespace Sys2Proof.Machine

variable (s : State)

@[simp] theorem observe_cfg (o : Obs) : (observe o s).cfg = s.cfg := rfl
@[simp] theorem observe_phase (o : Obs) : (observe o s).phase = s.phase := rfl
@[simp] theorem observe_req (o : Obs) : (observe o s).req = s.req := rfl
@[simp] theorem observe_eidx (o : Obs) : (observe o s).eidx = s.eidx := rfl
@[simp] theorem observe_status (o : Obs) : (observe o s).status = s.status := rfl
@[simp] theorem observe_port (o : Obs) : (observe o s).port = s.port := rfl
@[simp] theorem observe_ctrl (o : Obs) : (observe o s).ctrl = s.ctrl := rfl
@[simp] theorem observe_latched (o : Obs) : (observe o s).latched = s.latched := rfl
@[simp] theorem observe_log (o : Obs) : (observe o s).log = s.log ++ [o] := rfl
@[simp] theorem observe_requests (o : Obs) : (observe o s).requests = s.requests := rfl
@[simp] theorem observe_answers (o : Obs) : (observe o s).answers = s.answers := rfl
@[simp] theorem observe_resets (o : Obs) : (observe o s).resets = s.resets := rfl
@[simp] theorem observe_calls (o : Obs) : (observe o s).calls = s.calls := rfl

@[simp] theorem deliverByte_cfg (b : Byte) : (deliverByte b s).cfg = s.cfg := rfl
@[simp] theorem deliverByte_phase (b : Byte) : (deliverByte b s).phase = s.phase := rfl
@[simp] theorem deliverByte_req (b : Byte) : (deliverByte b s).req = s.req := rfl
@[simp] theorem deliverByte_eidx (b : Byte) : (deliverByte b s).eidx = s.eidx := rfl
@[simp] theorem deliverByte_status (b : Byte) : (deliverByte b s).status = s.status := rfl
@[simp] theorem deliverByte_port (b : Byte) : (deliverByte b s).port = b := rfl
@[simp] theorem deliverByte_ctrl (b : Byte) : (deliverByte b s).ctrl = s.ctrl := rfl
@[simp] theorem deliverByte_latched (b : Byte) : (deliverByte b s).latched = s.latched ++ newLatch b s := rfl
@[simp] theorem deliverByte_log (b : Byte) : (deliverByte b s).log = s.log := rfl
@[simp] theorem deliverByte_requests (b : Byte) : (deliverByte b s).requests = s.requests := rfl
@[simp] theorem deliverByte_answers (b : Byte) : (deliverByte b s).answers = s.answers := rfl
@[simp] theorem deliverByte_resets (b : Byte) : (deliverByte b s).resets = s.resets := rfl
@[simp] theorem deliverByte_calls (b : Byte) : (deliverByte b s).calls = s.calls := rfl

@[simp] theorem takeAnswer_cfg : (takeAnswer s).cfg = s.cfg := rfl
@[simp] theorem takeAnswer_phase : (takeAnswer s).phase = s.phase := rfl
@[simp] theorem takeAnswer_req : (takeAnswer s).req = s.req := rfl
@[simp] theorem takeAnswer_eidx : (takeAnswer s).eidx = s.eidx := rfl
@[simp] theorem takeAnswer_status : (takeAnswer s).status = s.status := rfl
@[simp] theorem takeAnswer_port : (takeAnswer s).port = s.port := rfl
@[simp] theorem takeAnswer_ctrl : (takeAnswer s).ctrl = s.ctrl := rfl
@[simp] theorem takeAnswer_latched : (takeAnswer s).latched = s.latched := rfl
@[simp] theorem takeAnswer_log : (takeAnswer s).log = s.log := rfl
@[simp] theorem takeAnswer_requests : (takeAnswer s).requests = s.requests := rfl
@[simp] theorem takeAnswer_answers : (takeAnswer s).answers = s.answers.tail := rfl
@[simp] theorem takeAnswer_resets : (takeAnswer s).resets = s.resets := rfl
@[simp] theorem takeAnswer_calls : (takeAnswer s).calls = s.calls + 1 := rfl

@[simp] theorem advance_cfg (m : Option Ctrl) : (advance m s).cfg = s.cfg := rfl
@[simp] theorem advance_phase (m : Option Ctrl) : (advance m s).phase = s.phase := rfl
@[simp] theorem advance_req (m : Option Ctrl) : (advance m s).req = s.req := rfl
@[simp] theorem advance_eidx (m : Option Ctrl) : (advance m s).eidx = s.eidx + 1#6 := rfl
@[simp] theorem advance_status (m : Option Ctrl) : (advance m s).status = s.status := rfl
@[simp] theorem advance_port (m : Option Ctrl) : (advance m s).port = s.port := rfl
@[simp] theorem advance_ctrl (m : Option Ctrl) : (advance m s).ctrl = m.getD s.ctrl := rfl
@[simp] theorem advance_latched (m : Option Ctrl) : (advance m s).latched = s.latched := rfl
@[simp] theorem advance_log (m : Option Ctrl) : (advance m s).log = s.log := rfl
@[simp] theorem advance_requests (m : Option Ctrl) : (advance m s).requests = s.requests := rfl
@[simp] theorem advance_answers (m : Option Ctrl) : (advance m s).answers = s.answers := rfl
@[simp] theorem advance_resets (m : Option Ctrl) : (advance m s).resets = s.resets := rfl
@[simp] theorem advance_calls (m : Option Ctrl) : (advance m s).calls = s.calls := rfl

@[simp] theorem respond_cfg (r : Status) : (respond r s).cfg = s.cfg := rfl
@[simp] theorem respond_phase (r : Status) : (respond r s).phase = .idle := rfl
@[simp] theorem respond_req (r : Status) : (respond r s).req = s.req := rfl
@[simp] theorem respond_eidx (r : Status) : (respond r s).eidx = s.eidx := rfl
@[simp] theorem respond_status (r : Status) : (respond r s).status = r := rfl
@[simp] theorem respond_port (r : Status) : (respond r s).port = s.port := rfl
@[simp] theorem respond_ctrl (r : Status) : (respond r s).ctrl = s.ctrl := rfl
@[simp] theorem respond_latched (r : Status) : (respond r s).latched = s.latched := rfl
@[simp] theorem respond_log (r : Status) : (respond r s).log = s.log ++ [.response r] := rfl
@[simp] theorem respond_requests (r : Status) : (respond r s).requests = s.requests := rfl
@[simp] theorem respond_answers (r : Status) : (respond r s).answers = s.answers := rfl
@[simp] theorem respond_resets (r : Status) : (respond r s).resets = s.resets := rfl
@[simp] theorem respond_calls (r : Status) : (respond r s).calls = s.calls := rfl

@[simp] theorem raiseError_cfg (e : BlockError) : (raiseError e s).cfg = s.cfg := rfl
@[simp] theorem raiseError_phase (e : BlockError) : (raiseError e s).phase = .idle := rfl
@[simp] theorem raiseError_req (e : BlockError) : (raiseError e s).req = s.req := rfl
@[simp] theorem raiseError_eidx (e : BlockError) : (raiseError e s).eidx = s.eidx := rfl
@[simp] theorem raiseError_status (e : BlockError) : (raiseError e s).status = errorStatus e := rfl
@[simp] theorem raiseError_port (e : BlockError) : (raiseError e s).port = s.port := rfl
@[simp] theorem raiseError_ctrl (e : BlockError) : (raiseError e s).ctrl = errorCtrl e s.ctrl := rfl
@[simp] theorem raiseError_latched (e : BlockError) : (raiseError e s).latched = s.latched := rfl
@[simp] theorem raiseError_log (e : BlockError) : (raiseError e s).log = s.log ++ [.response (errorStatus e)] := rfl
@[simp] theorem raiseError_requests (e : BlockError) : (raiseError e s).requests = s.requests := rfl
@[simp] theorem raiseError_answers (e : BlockError) : (raiseError e s).answers = s.answers := rfl
@[simp] theorem raiseError_resets (e : BlockError) : (raiseError e s).resets = s.resets := rfl
@[simp] theorem raiseError_calls (e : BlockError) : (raiseError e s).calls = s.calls := rfl

@[simp] theorem latchRequest_cfg (w : ReqWord) (rest : List ReqWord) : (latchRequest w rest s).cfg = s.cfg := rfl
@[simp] theorem latchRequest_phase (w : ReqWord) (rest : List ReqWord) : (latchRequest w rest s).phase = s.phase := rfl
@[simp] theorem latchRequest_req (w : ReqWord) (rest : List ReqWord) : (latchRequest w rest s).req = w := rfl
@[simp] theorem latchRequest_eidx (w : ReqWord) (rest : List ReqWord) : (latchRequest w rest s).eidx = s.eidx := rfl
@[simp] theorem latchRequest_status (w : ReqWord) (rest : List ReqWord) : (latchRequest w rest s).status = s.status := rfl
@[simp] theorem latchRequest_port (w : ReqWord) (rest : List ReqWord) : (latchRequest w rest s).port = s.port := rfl
@[simp] theorem latchRequest_ctrl (w : ReqWord) (rest : List ReqWord) : (latchRequest w rest s).ctrl = s.ctrl := rfl
@[simp] theorem latchRequest_latched (w : ReqWord) (rest : List ReqWord) : (latchRequest w rest s).latched = s.latched := rfl
@[simp] theorem latchRequest_log (w : ReqWord) (rest : List ReqWord) : (latchRequest w rest s).log = s.log ++ [.request w] := rfl
@[simp] theorem latchRequest_requests (w : ReqWord) (rest : List ReqWord) : (latchRequest w rest s).requests = rest := rfl
@[simp] theorem latchRequest_answers (w : ReqWord) (rest : List ReqWord) : (latchRequest w rest s).answers = s.answers := rfl
@[simp] theorem latchRequest_resets (w : ReqWord) (rest : List ReqWord) : (latchRequest w rest s).resets = s.resets := rfl
@[simp] theorem latchRequest_calls (w : ReqWord) (rest : List ReqWord) : (latchRequest w rest s).calls = s.calls := rfl

@[simp] theorem acceptRequest_cfg (m : Option Ctrl) : (acceptRequest m s).cfg = s.cfg := rfl
@[simp] theorem acceptRequest_phase (m : Option Ctrl) : (acceptRequest m s).phase = .busy := rfl
@[simp] theorem acceptRequest_req (m : Option Ctrl) : (acceptRequest m s).req = s.req := rfl
@[simp] theorem acceptRequest_eidx (m : Option Ctrl) : (acceptRequest m s).eidx = 0#6 := rfl
@[simp] theorem acceptRequest_status (m : Option Ctrl) : (acceptRequest m s).status = .none := rfl
@[simp] theorem acceptRequest_port (m : Option Ctrl) : (acceptRequest m s).port = s.port := rfl
@[simp] theorem acceptRequest_ctrl (m : Option Ctrl) : (acceptRequest m s).ctrl = m.getD s.ctrl := rfl
@[simp] theorem acceptRequest_latched (m : Option Ctrl) : (acceptRequest m s).latched = s.latched := rfl
@[simp] theorem acceptRequest_log (m : Option Ctrl) : (acceptRequest m s).log = s.log := rfl
@[simp] theorem acceptRequest_requests (m : Option Ctrl) : (acceptRequest m s).requests = s.requests := rfl
@[simp] theorem acceptRequest_answers (m : Option Ctrl) : (acceptRequest m s).answers = s.answers := rfl
@[simp] theorem acceptRequest_resets (m : Option Ctrl) : (acceptRequest m s).resets = s.resets := rfl
@[simp] theorem acceptRequest_calls (m : Option Ctrl) : (acceptRequest m s).calls = s.calls := rfl

@[simp] theorem performWait_cfg (m : Option Ctrl) (us : Nat) : (performWait m us s).cfg = s.cfg := rfl
@[simp] theorem performWait_phase (m : Option Ctrl) (us : Nat) : (performWait m us s).phase = s.phase := rfl
@[simp] theorem performWait_req (m : Option Ctrl) (us : Nat) : (performWait m us s).req = s.req := rfl
@[simp] theorem performWait_eidx (m : Option Ctrl) (us : Nat) : (performWait m us s).eidx = s.eidx + 1#6 := rfl
@[simp] theorem performWait_status (m : Option Ctrl) (us : Nat) : (performWait m us s).status = s.status := rfl
@[simp] theorem performWait_port (m : Option Ctrl) (us : Nat) : (performWait m us s).port = s.port := rfl
@[simp] theorem performWait_ctrl (m : Option Ctrl) (us : Nat) : (performWait m us s).ctrl = m.getD s.ctrl := rfl
@[simp] theorem performWait_latched (m : Option Ctrl) (us : Nat) : (performWait m us s).latched = s.latched := rfl
@[simp] theorem performWait_log (m : Option Ctrl) (us : Nat) : (performWait m us s).log = s.log ++ [.delay us] := rfl
@[simp] theorem performWait_requests (m : Option Ctrl) (us : Nat) : (performWait m us s).requests = s.requests := rfl
@[simp] theorem performWait_answers (m : Option Ctrl) (us : Nat) : (performWait m us s).answers = s.answers := rfl
@[simp] theorem performWait_resets (m : Option Ctrl) (us : Nat) : (performWait m us s).resets = s.resets := rfl
@[simp] theorem performWait_calls (m : Option Ctrl) (us : Nat) : (performWait m us s).calls = s.calls := rfl

@[simp] theorem lnsReset_cfg : (lnsReset s).cfg = s.cfg := rfl
@[simp] theorem lnsReset_phase : (lnsReset s).phase = .idle := rfl
@[simp] theorem lnsReset_req : (lnsReset s).req = 0x0000#16 := rfl
@[simp] theorem lnsReset_eidx : (lnsReset s).eidx = 0#6 := rfl
@[simp] theorem lnsReset_status : (lnsReset s).status = .none := rfl
@[simp] theorem lnsReset_port : (lnsReset s).port = s.port := rfl
@[simp] theorem lnsReset_ctrl : (lnsReset s).ctrl = resetCtrl s := rfl
@[simp] theorem lnsReset_latched : (lnsReset s).latched = s.latched := rfl
@[simp] theorem lnsReset_log : (lnsReset s).log = s.log ++ [.reset] := rfl
@[simp] theorem lnsReset_requests : (lnsReset s).requests = s.requests := rfl
@[simp] theorem lnsReset_answers : (lnsReset s).answers = s.answers := rfl
@[simp] theorem lnsReset_resets : (lnsReset s).resets = s.resets := rfl
@[simp] theorem lnsReset_calls : (lnsReset s).calls = s.calls := rfl

@[simp] theorem takeReset_cfg : (takeReset s).cfg = s.cfg := rfl
@[simp] theorem takeReset_phase : (takeReset s).phase = s.phase := rfl
@[simp] theorem takeReset_req : (takeReset s).req = s.req := rfl
@[simp] theorem takeReset_eidx : (takeReset s).eidx = s.eidx := rfl
@[simp] theorem takeReset_status : (takeReset s).status = s.status := rfl
@[simp] theorem takeReset_port : (takeReset s).port = s.port := rfl
@[simp] theorem takeReset_ctrl : (takeReset s).ctrl = s.ctrl := rfl
@[simp] theorem takeReset_latched : (takeReset s).latched = s.latched := rfl
@[simp] theorem takeReset_log : (takeReset s).log = s.log := rfl
@[simp] theorem takeReset_requests : (takeReset s).requests = s.requests := rfl
@[simp] theorem takeReset_answers : (takeReset s).answers = s.answers := rfl
@[simp] theorem takeReset_resets : (takeReset s).resets = s.resets.tail := rfl
@[simp] theorem takeReset_calls : (takeReset s).calls = s.calls := rfl

@[simp] theorem present_cfg (w : ReqWord) : (present w s).cfg = s.cfg := rfl
@[simp] theorem present_phase (w : ReqWord) : (present w s).phase = s.phase := rfl
@[simp] theorem present_req (w : ReqWord) : (present w s).req = s.req := rfl
@[simp] theorem present_eidx (w : ReqWord) : (present w s).eidx = s.eidx := rfl
@[simp] theorem present_status (w : ReqWord) : (present w s).status = s.status := rfl
@[simp] theorem present_port (w : ReqWord) : (present w s).port = s.port := rfl
@[simp] theorem present_ctrl (w : ReqWord) : (present w s).ctrl = s.ctrl := rfl
@[simp] theorem present_latched (w : ReqWord) : (present w s).latched = s.latched := rfl
@[simp] theorem present_log (w : ReqWord) : (present w s).log = s.log := rfl
@[simp] theorem present_requests (w : ReqWord) : (present w s).requests = w :: s.requests := rfl
@[simp] theorem present_answers (w : ReqWord) : (present w s).answers = s.answers := rfl
@[simp] theorem present_resets (w : ReqWord) : (present w s).resets = s.resets := rfl
@[simp] theorem present_calls (w : ReqWord) : (present w s).calls = s.calls := rfl

end Sys2Proof.Machine
end

