-- ==== Sys2Proof/Laws/Ops.lean ====
section
/-! SUPPORT. What each shared operation can do: delivering bytes, the transport's call, and the sequencer's step for one
operation. -/

namespace Sys2Proof.Machine

/-! ### Delivering bytes -/

@[simp] theorem deliver_nil (s : State) : deliver [] s = s := rfl

@[simp] theorem deliver_cons (b : Byte) (bs : List Byte) (s : State) :
    deliver (b :: bs) s = deliver bs (deliverByte b s) := rfl

theorem deliver_append (bs cs : List Byte) (s : State) : deliver (bs ++ cs) s = deliver cs (deliver bs s) := by
  induction bs generalizing s with
  | nil => rfl
  | cons b bs ih => exact ih _

@[simp] theorem portAfter_nil (p : Byte) : portAfter [] p = p := rfl

@[simp] theorem portAfter_cons (b : Byte) (bs : List Byte) (p : Byte) :
    portAfter (b :: bs) p = portAfter bs b := by
  cases bs with
  | nil => rfl
  | cons c bs => simp [portAfter, List.getLast?_eq_getLast_of_ne_nil]

theorem portAfter_append (bs cs : List Byte) (p : Byte) :
    portAfter (bs ++ cs) p = portAfter cs (portAfter bs p) := by
  induction bs generalizing p with
  | nil => rfl
  | cons b bs ih => simpa using ih b

theorem portAfter_of_getLast? {bs : List Byte} {b : Byte} (h : bs.getLast? = some b) (p : Byte) :
    portAfter bs p = b := by simp [portAfter, h]

/-- Delivering bytes changes the port and the latched nibbles, and nothing else; it only adds latches (R37, R47). -/
theorem deliver_eq (bs : List Byte) (s : State) :
    ∃ l, deliver bs s = { s with port := portAfter bs s.port, latched := s.latched ++ l } := by
  induction bs generalizing s with
  | nil => exact ⟨[], by simp⟩
  | cons b bs ih =>
    obtain ⟨l, hl⟩ := ih (deliverByte b s)
    exact ⟨newLatch b s ++ l, by rw [deliver_cons, hl]; simp [deliverByte]⟩

section
variable (bs : List Byte) (s : State)

@[simp] theorem deliver_cfg : (deliver bs s).cfg = s.cfg := by obtain ⟨l, h⟩ := deliver_eq bs s; rw [h]
@[simp] theorem deliver_phase : (deliver bs s).phase = s.phase := by obtain ⟨l, h⟩ := deliver_eq bs s; rw [h]
@[simp] theorem deliver_req : (deliver bs s).req = s.req := by obtain ⟨l, h⟩ := deliver_eq bs s; rw [h]
@[simp] theorem deliver_eidx : (deliver bs s).eidx = s.eidx := by obtain ⟨l, h⟩ := deliver_eq bs s; rw [h]
@[simp] theorem deliver_status : (deliver bs s).status = s.status := by obtain ⟨l, h⟩ := deliver_eq bs s; rw [h]
@[simp] theorem deliver_port : (deliver bs s).port = portAfter bs s.port := by obtain ⟨l, h⟩ := deliver_eq bs s; rw [h]
@[simp] theorem deliver_ctrl : (deliver bs s).ctrl = s.ctrl := by obtain ⟨l, h⟩ := deliver_eq bs s; rw [h]
@[simp] theorem deliver_log : (deliver bs s).log = s.log := by obtain ⟨l, h⟩ := deliver_eq bs s; rw [h]
@[simp] theorem deliver_requests : (deliver bs s).requests = s.requests := by obtain ⟨l, h⟩ := deliver_eq bs s; rw [h]
@[simp] theorem deliver_answers : (deliver bs s).answers = s.answers := by obtain ⟨l, h⟩ := deliver_eq bs s; rw [h]
@[simp] theorem deliver_resets : (deliver bs s).resets = s.resets := by obtain ⟨l, h⟩ := deliver_eq bs s; rw [h]
@[simp] theorem deliver_calls : (deliver bs s).calls = s.calls := by obtain ⟨l, h⟩ := deliver_eq bs s; rw [h]

end

/-- A frame with EN = 1 latches nothing (R47 item 2). -/
theorem deliverByte_enableHigh {b : Byte} {s : State} (h : enLine s.cfg b = true) :
    (deliverByte b s).latched = s.latched := by
  simp [newLatch, h]

/-- A strobe pair latches its nibble, whatever the port held before (R47 item 1, R84). -/
theorem deliver_strobe {s : State} (h : s.cfg.wf = true) (n : Nibble) (rs : Bool) :
    deliver (strobe s.cfg n rs) s =
      { s with port := frame s.cfg n rs false, latched := s.latched ++ [⟨rs, n⟩] } := by
  simp [strobe, deliverByte, newLatch, latchedNibble, enLine_frame h, rsLine_frame h, hiNibble_frame]

/-- A list of strobe pairs latches its nibbles in order (R84). -/
theorem deliver_strobes_latched (ls : List Latch) {s : State} (h : s.cfg.wf = true) :
    (deliver (ls.flatMap fun l => strobe s.cfg l.nibble l.rs) s).latched = s.latched ++ ls := by
  induction ls generalizing s with
  | nil => simp
  | cons l ls ih =>
    rw [List.flatMap_cons, deliver_append, deliver_strobe h]
    exact (ih (s := { s with port := _, latched := s.latched ++ [l] }) h).trans (by simp)

/-! ### The transport's call -/

theorem performXfer_ok {s : State} (h : nextAnswer s = .ok) (m : Option Ctrl) (bs : List Byte) :
    performXfer m bs s =
      .next (advance m (observe (callObs s bs .ok bs) (deliver bs (takeAnswer s)))) := by
  simp [performXfer, h]

theorem performXfer_fail {s : State} {j : Nat} (h : nextAnswer s = .fail j) (m : Option Ctrl) (bs : List Byte) :
    performXfer m bs s =
      .next (raiseError .transportFailure
        (observe (callObs s bs .fail (bs.take j)) (deliver (bs.take j) (takeAnswer s)))) := by
  simp [performXfer, h]

theorem performXfer_never {s : State} (h : nextAnswer s = .never) (m : Option Ctrl) (bs : List Byte) :
    performXfer m bs s = .fault .transportNeverReturns := by
  simp [performXfer, h]

/-- The three outcomes of a transport call (R119). -/
theorem performXfer_cases (m : Option Ctrl) (bs : List Byte) (s : State) :
    (nextAnswer s = .ok ∧ performXfer m bs s =
        .next (advance m (observe (callObs s bs .ok bs) (deliver bs (takeAnswer s))))) ∨
      (∃ j, nextAnswer s = .fail j ∧ performXfer m bs s =
        .next (raiseError .transportFailure
          (observe (callObs s bs .fail (bs.take j)) (deliver (bs.take j) (takeAnswer s))))) ∨
      (nextAnswer s = .never ∧ performXfer m bs s = .fault .transportNeverReturns) := by
  cases h : nextAnswer s with
  | ok => exact .inl ⟨rfl, performXfer_ok h m bs⟩
  | fail j => exact .inr (.inl ⟨j, rfl, performXfer_fail h m bs⟩)
  | never => exact .inr (.inr ⟨rfl, performXfer_never h m bs⟩)

/-! ### The sequencer's step for one operation -/

theorem runOperation_idle {s : State} (h : s.phase = .idle) (op : Operation) :
    runOperation op s = .next (acceptRequest op.onAccept s) := by
  simp [runOperation, h]

theorem runOperation_complete {s : State} (h : s.phase = .busy) {op : Operation}
    (he : s.eidx.toNat = op.events.length) : runOperation op s = .next (respond .ok s) := by
  simp [runOperation, h, he]

theorem runOperation_xfer {s : State} (h : s.phase = .busy) {op : Operation} {bs : List Byte}
    (he : op.events[s.eidx.toNat]? = some (.xfer bs)) :
    runOperation op s = performXfer (op.markAt s.eidx.toNat) bs s := by
  have hn : s.eidx.toNat ≠ op.events.length := by
    have := (List.getElem?_eq_some_iff.mp he).1; omega
  simp [runOperation, h, hn, he]

theorem runOperation_wait {s : State} (h : s.phase = .busy) {op : Operation} {us : Nat}
    (he : op.events[s.eidx.toNat]? = some (.wait us)) :
    runOperation op s = .next (performWait (op.markAt s.eidx.toNat) us s) := by
  have hn : s.eidx.toNat ≠ op.events.length := by
    have := (List.getElem?_eq_some_iff.mp he).1; omega
  simp [runOperation, h, hn, he]

theorem runOperation_outOfRange {s : State} (h : s.phase = .busy) {op : Operation}
    (he : op.events.length < s.eidx.toNat) : runOperation op s = .fault .eventIndexOutOfRange := by
  have hn : s.eidx.toNat ≠ op.events.length := by omega
  have hg : op.events[s.eidx.toNat]? = none := List.getElem?_eq_none (by omega)
  simp [runOperation, h, hn, hg]

/-- Everything the sequencer's step can do while it runs an operation (R25): accept it, complete it, or perform the
event at `EIDX`. -/
theorem runOperation_cases {op : Operation} {s t : State} (h : runOperation op s = .next t) :
    (s.phase = .idle ∧ t = acceptRequest op.onAccept s) ∨
      (s.phase = .busy ∧ s.eidx.toNat = op.events.length ∧ t = respond .ok s) ∨
      (∃ us, s.phase = .busy ∧ op.events[s.eidx.toNat]? = some (.wait us) ∧
        t = performWait (op.markAt s.eidx.toNat) us s) ∨
      (∃ bs, s.phase = .busy ∧ op.events[s.eidx.toNat]? = some (.xfer bs) ∧
        ((nextAnswer s = .ok ∧
            t = advance (op.markAt s.eidx.toNat)
              (observe (callObs s bs .ok bs) (deliver bs (takeAnswer s)))) ∨
          ∃ j, nextAnswer s = .fail j ∧
            t = raiseError .transportFailure
              (observe (callObs s bs .fail (bs.take j)) (deliver (bs.take j) (takeAnswer s))))) := by
  cases hp : s.phase with
  | idle =>
    rw [runOperation_idle hp] at h
    exact .inl ⟨rfl, (Host.Outcome.next.inj h).symm⟩
  | busy =>
    refine .inr ?_
    by_cases he : s.eidx.toNat = op.events.length
    · rw [runOperation_complete hp he] at h
      exact .inl ⟨rfl, he, (Host.Outcome.next.inj h).symm⟩
    · cases hg : op.events[s.eidx.toNat]? with
      | none => simp [runOperation, hp, he, hg] at h
      | some e =>
        cases e with
        | wait us =>
          rw [runOperation_wait hp hg] at h
          exact .inr (.inl ⟨us, rfl, rfl, (Host.Outcome.next.inj h).symm⟩)
        | xfer bs =>
          rw [runOperation_xfer hp hg] at h
          refine .inr (.inr ⟨bs, rfl, rfl, ?_⟩)
          rcases performXfer_cases (op.markAt s.eidx.toNat) bs s with ⟨ha, hx⟩ | ⟨j, ha, hx⟩ | ⟨-, hx⟩
          · exact .inl ⟨ha, by rw [hx] at h; exact (Host.Outcome.next.inj h).symm⟩
          · exact .inr ⟨j, ha, by rw [hx] at h; exact (Host.Outcome.next.inj h).symm⟩
          · rw [hx] at h; cases h

/-- `exec` runs the request's operation (R20). -/
theorem exec_eq (i : Instr) (s : State) : exec i s = runOperation (operationOf s.cfg i) s := by
  cases i <;> rfl

theorem eventsOf_eq (c : Config) (i : Instr) : eventsOf c i = (operationOf c i).events := rfl

/-- No request but INIT moves `CTRL` as its events complete (R108). -/
theorem markAt_of_ne_init {i : Instr} (h : i ≠ .init) (c : Config) (k : Nat) :
    (operationOf c i).markAt k = none := by
  cases i <;> first | rfl | exact absurd rfl h

theorem onAccept_operationOf (i : Instr) (c : Config) (x : Ctrl) :
    (operationOf c i).onAccept.getD x = if i = .init then .poweredOnUnknown else x := by
  cases i <;> rfl

/-! ### INIT's ghost transitions -/

/-- The indices of R108's points, by the number of events of a command. -/
theorem initLastEvent_values (c : Config) :
    initLastEvent c 5 = 3 * cmdEventCount c.group + 2 ∧ initLastEvent c 6 = 4 * cmdEventCount c.group + 2 ∧
      initLastEvent c 9 = 7 * cmdEventCount c.group + 2 ∧ initLastEvent c 11 = 8 * cmdEventCount c.group + 3 := by
  simp only [initLastEvent, initSteps, List.take, List.flatMap_cons, initStepEvents, List.flatMap_nil,
    List.length_append, eventsCmd_length, List.length_cons, List.length_nil]
  refine ⟨?_, ?_, ?_, ?_⟩ <;> omega

/-- A lookup, entry by entry. -/
theorem lookup_cons_ite (a b : Nat) (x : Ctrl) (l : List (Nat × Ctrl)) :
    ((b, x) :: l).lookup a = if a = b then some x else l.lookup a := by
  by_cases h : a = b
  · subst h; simp
  · simp [List.lookup_cons, beq_eq_false_iff_ne.mpr h, h]

theorem markAt_init (c : Config) (k : Nat) :
    (initOperation c).markAt k =
      if k = initLastEvent c 5 then some .eightBitProbed
      else if k = initLastEvent c 6 then some .fourBitCommitted
      else if k = initLastEvent c 9 then some .configured
      else if k = initLastEvent c 11 then some .clearedReady
      else none := by
  simp only [Operation.markAt, initOperation, lookup_cons_ite, List.lookup_nil]

/-! ### Positions in the event list -/

/-- `EIDX` does not wrap while an event is left (R21, R22). -/
theorem eidx_succ_toNat {s : State} {i : Instr} (h : s.eidx.toNat < (eventsOf s.cfg i).length) :
    (s.eidx + 1#6).toNat = s.eidx.toNat + 1 := by
  have := eventsOf_length_le s.cfg i
  rw [BitVec.toNat_add]
  simp; omega

/-- What a byte list latches depends only on the configuration, the port and what was latched before (R47). -/
theorem deliver_latched_congr (bs : List Byte) {s u : State} (hc : s.cfg = u.cfg) (hp : s.port = u.port)
    (hl : s.latched = u.latched) : (deliver bs s).latched = (deliver bs u).latched := by
  induction bs generalizing s u with
  | nil => exact hl
  | cons b bs ih => exact ih hc rfl (by simp [newLatch, latchedNibble, hc, hp, hl])

end Sys2Proof.Machine
end

