-- ==== Sys2Proof/Laws/PerInstr.lean ====
section
/-! SUPPORT. The statements made request by request: the word of a request is legal by the table of R56. -/

namespace Sys2Proof.Laws.EncodeLegal

/-- The word of a request matches a row of the request table (R56). -/
def Statement (i : Instr) : Prop := wordLegal (encode i) = true

theorem cmd (b : Byte) : Statement (.cmd b) := by
  unfold Statement; revert b; decide +kernel

theorem data (b : Byte) : Statement (.data b) := by
  unfold Statement; revert b; decide +kernel

theorem setcur (row : BitVec 1) (col : Byte) : Statement (.setcur row col) := by
  unfold Statement; revert row col; decide +kernel

theorem init : Statement .init := by
  unfold Statement; decide

end Sys2Proof.Laws.EncodeLegal
end

