-- ==== Sys2Proof/Laws/Step.lean ====
section
/-! SUPPORT. Everything a step can do, said once. -/

namespace Sys2Proof.Machine

theorem resetLow_iff {s : State} : resetLow s = true ↔ ∀ cut, s.resets.head? ≠ some (some cut) := by
  unfold resetLow
  split
  · rename_i cut h; simp [h]
  · rename_i h; exact ⟨fun _ cut hc => h cut hc, fun _ => rfl⟩

/-- The reset line is low in each of the next `n` steps: `u` is a state `m` steps on. -/
theorem resetLow_of_noReset {n m : Nat} {s u : State} (h : NoReset n s) (hm : m < n)
    (hu : u.resets = s.resets.drop m) : resetLow u = true := by
  rw [resetLow_iff]
  intro cut hc
  rw [hu, List.head?_drop] at hc
  cases h (some cut) (List.mem_iff_getElem?.mpr ⟨m, by rw [List.getElem?_take_of_lt hm]; exact hc⟩)

theorem noReset_mono {n m : Nat} {s : State} (h : NoReset n s) (hm : m ≤ n) : NoReset m s :=
  fun r hr => h r ((List.take_prefix_take_left hm).subset hr)

/-- The steps after the first `m` of them. -/
theorem noReset_drop {n m : Nat} {s u : State} (h : NoReset (m + n) s) (hu : u.resets = s.resets.drop m) :
    NoReset n u := by
  intro r hr
  rw [hu, List.take_drop] at hr
  exact h r (List.mem_of_mem_drop hr)

theorem step_illFormed {s : State} (h : s.cfg.wf = false) : step s = .refused .illFormedConfig := by
  simp [step, blockStep, h]

theorem step_reset {s : State} (h : s.cfg.wf = true) {cut : Nat} (hr : s.resets.head? = some (some cut)) :
    step s = .next (resetStep cut (takeReset s)) := by
  simp [step, blockStep, h, hr]

theorem step_sequencer {s : State} (h : s.cfg.wf = true) (hr : resetLow s = true) :
    step s = sequencerStep (takeReset s) := by
  have hr' := resetLow_iff.mp hr
  unfold step blockStep
  rw [h]
  split
  · contradiction
  · split
    · rename_i cut hc; exact absurd hc (hr' cut)
    · rfl

/-- A step that answers a next state: a reset, an idle block that stays idle, an illegal word refused, a legal word
accepted, or the current operation run (R25, R136). -/
theorem step_cases {s t : State} (h : step s = .next t) :
    s.cfg.wf = true ∧
      ((∃ cut, s.resets.head? = some (some cut) ∧ t = resetStep cut (takeReset s)) ∨
        (resetLow s = true ∧
          ((s.phase = .idle ∧ s.requests = [] ∧ t = takeReset s) ∨
            (∃ w rest, s.phase = .idle ∧ s.requests = w :: rest ∧
              ((∃ e, decode w = .illegal e ∧
                  t = raiseError .illegalRequest (latchRequest w rest (takeReset s))) ∨
                ∃ i, decode w = .op i ∧
                  t = acceptRequest (operationOf s.cfg i).onAccept (latchRequest w rest (takeReset s)))) ∨
            (∃ i, s.phase = .busy ∧ decode s.req = .op i ∧
              runOperation (operationOf s.cfg i) (takeReset s) = .next t)))) := by
  cases hw : s.cfg.wf with
  | false => rw [step_illFormed hw] at h; cases h
  | true =>
    refine ⟨rfl, ?_⟩
    cases hr : resetLow s with
    | false =>
      unfold resetLow at hr
      split at hr
      · rename_i cut hc
        rw [step_reset hw hc] at h
        exact .inl ⟨cut, hc, (Host.Outcome.next.inj h).symm⟩
      · cases hr
    | true =>
      refine .inr ⟨rfl, ?_⟩
      rw [step_sequencer hw hr] at h
      unfold sequencerStep at h
      cases hp : s.phase with
      | idle =>
        simp only [takeReset_phase, hp, takeReset_requests] at h
        cases hq : s.requests with
        | nil => rw [hq] at h; exact .inl ⟨rfl, rfl, (Host.Outcome.next.inj h).symm⟩
        | cons w rest =>
          rw [hq] at h
          refine .inr (.inl ⟨w, rest, rfl, rfl, ?_⟩)
          simp only [acceptStep] at h
          cases hd : decode w with
          | illegal e => rw [hd] at h; exact .inl ⟨e, rfl, (Host.Outcome.next.inj h).symm⟩
          | op i =>
            simp only [hd, exec_eq, latchRequest_cfg, takeReset_cfg] at h
            rw [runOperation_idle (by simpa using hp)] at h
            exact .inr ⟨i, rfl, (Host.Outcome.next.inj h).symm⟩
      | busy =>
        simp only [takeReset_phase, hp, takeReset_req] at h
        cases hd : decode s.req with
        | illegal e => rw [hd] at h; cases h
        | op i =>
          simp only [hd, exec_eq, takeReset_cfg] at h
          exact .inr (.inr ⟨i, rfl, rfl, h⟩)

/-- An abandoned event changes only the port, the latched nibbles and the log (R136, R137, R118). -/
theorem abandonEvent_cases (cut : Nat) (e : Option Event) (s : State) :
    abandonEvent cut e s = s ∨
      ∃ bs k, e = some (.xfer bs) ∧ cut = k + 1 ∧
        abandonEvent cut e s = observe (callObs s bs .abandoned (bs.take (k + 1))) (deliver (bs.take (k + 1)) s) := by
  unfold abandonEvent
  split
  · exact .inr ⟨_, _, rfl, rfl, rfl⟩
  · exact .inl rfl

/-- Each step consumes one sample of the reset line. -/
theorem step_resets {s t : State} (h : step s = .next t) : t.resets = s.resets.tail := by
  obtain ⟨hw, ⟨cut, hr, rfl⟩ | ⟨hr, ⟨hp, hq, rfl⟩ | ⟨w, rest, hp, hq, ⟨e, hd, rfl⟩ | ⟨i, hd, rfl⟩⟩ |
    ⟨i, hp, hd, ho⟩⟩⟩ := step_cases h
  · unfold resetStep
    rcases abandonEvent_cases cut (currentEvent (takeReset s)) (takeReset s) with h | ⟨bs, k, -, -, h⟩ <;>
      rw [h] <;> simp
  · rfl
  · rfl
  · rfl
  · rcases runOperation_cases ho with
      ⟨hp', rfl⟩ | ⟨hp, he, rfl⟩ | ⟨us, hp, he, rfl⟩ | ⟨bs, hp, he, ⟨ha, rfl⟩ | ⟨j, ha, rfl⟩⟩ <;> simp

/-! ### Runs -/

theorem hostRun_cons (M : Host.Core) {s t : M.State} (h : M.step s = .next t) (n : Nat) :
    M.run (n + 1) s = M.run n t := by
  simp [Host.Core.run, h]

theorem hostRun_snoc (M : Host.Core) {n : Nat} {s t : M.State} (h : M.run n s = .next t) :
    M.run (n + 1) s = M.step t := by
  induction n generalizing s with
  | zero =>
    cases h
    simp only [Host.Core.run]
    split <;> simp [*]
  | succ n ih =>
    cases hs : M.step s with
    | next s' => rw [hostRun_cons M hs] at h ⊢; exact ih h
    | fault f => simp [Host.Core.run, hs] at h
    | refused r => simp [Host.Core.run, hs] at h

theorem runSteps_zero (s : State) : runSteps 0 s = .next s := rfl

/-- The first step of a run. -/
theorem runSteps_cons {s t : State} (h : step s = .next t) (n : Nat) : runSteps (n + 1) s = runSteps n t :=
  hostRun_cons Sys2Proof.core (s := s) (t := t) h n

/-- The last step of a run. -/
theorem runSteps_snoc {n : Nat} {s t : State} (h : runSteps n s = .next t) : runSteps (n + 1) s = step t :=
  hostRun_snoc Sys2Proof.core (s := s) (t := t) h

end Sys2Proof.Machine
end

