-- ==== Sys2Proof/Laws/Print.lean ====
section
/-! SUPPORT. The host's waiting, in terms of the machine's run: what a PRINT proof needs of it. -/

namespace Sys2Proof.Machine

/-! ### One step of the host's waiting -/

section
variable {s t : State} (h : step s = .next t) (n : Nat)
include h

theorem awaitResponse_taken (hr : resetLow s = true) (hs : s.phase = .idle) (ht : t.phase = .busy) :
    awaitResponse (n + 1) false s = awaitResponse n true t := by simp [awaitResponse, h, hr, hs, ht]

theorem awaitResponse_refused (hr : resetLow s = true) (hs : s.phase = .idle) (ht : t.phase = .idle) :
    awaitResponse (n + 1) false s = .next (t, .response t.status) := by simp [awaitResponse, h, hr, hs, ht]

theorem awaitResponse_held (hs : s.phase = .busy) : awaitResponse (n + 1) false s = awaitResponse n false t := by
  cases hr : resetLow s <;> simp [awaitResponse, h, hr, hs]

theorem awaitResponse_heldOverReset (hr : resetLow s = false) :
    awaitResponse (n + 1) false s = awaitResponse n false t := by simp [awaitResponse, h, hr]

theorem awaitResponse_abandoned (hr : resetLow s = false) :
    awaitResponse (n + 1) true s = .next (t, .abandoned) := by simp [awaitResponse, h, hr]

theorem awaitResponse_running (hr : resetLow s = true) (ht : t.phase = .busy) :
    awaitResponse (n + 1) true s = awaitResponse n true t := by simp [awaitResponse, h, hr, ht]

theorem awaitResponse_answered (hr : resetLow s = true) (ht : t.phase = .idle) :
    awaitResponse (n + 1) true s = .next (t, .response t.status) := by simp [awaitResponse, h, hr, ht]

end

theorem awaitResponse_fault {s : State} {f : Fault} (h : step s = .fault f) (n : Nat) (taken : Bool) :
    awaitResponse (n + 1) taken s = .fault f := by simp [awaitResponse, h]

/-! ### Along a run -/

/-- Once the word is taken, the host waits along the run up to the first idle state (R29, R147). -/
theorem awaitResponse_of_run {t : State} (ht : t.phase = .idle) (m : Nat) :
    ∀ (n : Nat) (s : State), (∀ k, k ≤ m → ∃ u, runSteps k s = .next u ∧ u.phase = .busy ∧ resetLow u = true) →
      runSteps (m + 1) s = .next t → m < n → awaitResponse n true s = .next (t, .response t.status) := by
  induction m with
  | zero =>
    intro n s hb h hn
    obtain ⟨k, rfl⟩ : ∃ k, n = k + 1 := ⟨n - 1, by omega⟩
    obtain ⟨u, hu, -, hr⟩ := hb 0 le_rfl
    rw [runSteps_zero] at hu
    cases hu
    exact awaitResponse_answered (by rw [← runSteps_snoc (runSteps_zero s)]; exact h) k hr ht
  | succ m ih =>
    intro n s hb h hn
    obtain ⟨k, rfl⟩ : ∃ k, n = k + 1 := ⟨n - 1, by omega⟩
    obtain ⟨u, hu, -, hr⟩ := hb 0 (by omega)
    rw [runSteps_zero] at hu
    cases hu
    obtain ⟨v, hv, hvp, -⟩ := hb 1 (by omega)
    have hs : step s = .next v := by rw [← runSteps_snoc (runSteps_zero s)]; exact hv
    rw [awaitResponse_running hs k hr hvp]
    rw [runSteps_cons hs] at h
    refine ih k v (fun j hj => ?_) h (by omega)
    obtain ⟨u, hu, hup⟩ := hb (j + 1) (by omega)
    rw [runSteps_cons hs] at hu
    exact ⟨u, hu, hup⟩

/-- A word presented to an idle block, where the run takes it and comes back to idle without a reset (R94). -/
theorem issueRequest_of_run {w : ReqWord} {s t : State} {m : Nat} (hp : s.phase = .idle) (hr : resetLow s = true)
    (ht : t.phase = .idle)
    (hb : ∀ k, k ≤ m → ∃ u, runSteps (k + 1) (present w s) = .next u ∧ u.phase = .busy ∧ resetLow u = true)
    (h : runSteps (m + 2) (present w s) = .next t) (hm : m < 127) :
    issueRequest w s = .next (t, .response t.status) := by
  obtain ⟨v, hv, hvp, -⟩ := hb 0 (by omega)
  have hs : step (present w s) = .next v := by rw [← runSteps_snoc (runSteps_zero _)]; exact hv
  unfold issueRequest awaitBound
  rw [awaitResponse_taken hs _ hr hp hvp]
  rw [runSteps_cons hs] at h
  refine awaitResponse_of_run ht m _ v (fun k hk => ?_) h (by omega)
  obtain ⟨u, hu, hup⟩ := hb k hk
  rw [runSteps_cons hs] at hu
  exact ⟨u, hu, hup⟩

end Sys2Proof.Machine
end

