-- ==== Sys2Proof/Tests/Slice0.lean ====
section
/-! SUPPORT. Tests of the model, and a witness for every statement that has hypotheses. Expected values come from the
vectors and tables of 95_test_vectors.md and of the rules named in the comments. -/

namespace Sys2Proof.Tests

open Sys2Proof.Machine

/-! ### Small states -/

/-- The default configuration on a display of 16 columns, with the grouping as a parameter. -/
def config (g : Grouping := .source) : Config := { group := g, cols := 16 }

/-- An idle block after reset, with port 0x00, that the host presents `words` to. -/
def idleWith (words : List ReqWord) (g : Grouping := .source) : State :=
  { State.reset with cfg := config g, port := 0x00#8, requests := words }

/-- A block that is BUSY with the request `i` at event `k`, with the given answers to come. -/
def busyWith (i : Instr) (k : Nat) (answers : List TransportAnswer) (g : Grouping := .source) : State :=
  { idleWith [] g with phase := .busy, req := encode i, eidx := BitVec.ofNat 6 k, answers := answers }

/-- What one part of the state is after a step that answers a next state. -/
def after {α : Type} (o : Host.Outcome State Fault Refusal) (part : State → α) : Option α :=
  match o with
  | .next s => some (part s)
  | .fault _ => none
  | .refused _ => none

/-! ### Well-formedness: one ill-formed term for each check -/

-- R5's defaults, and V-I6: the minimums themselves.
theorem test_wf_defaults : (config).wf = true := by decide
theorem test_wf_minimums :
    Config.wf { cols := 16, tPowerUs := 40000, tG1Us := 4100, tG2Us := 100, tClrUs := 1600 } = true := by decide
-- R5's fixed values.
theorem test_illFormed_addr7 : Config.wf { cols := 16, addr7 := 0x26#7 } = false := by decide
theorem test_illFormed_sclHz : Config.wf { cols := 16, sclHz := 400000 } = false := by decide
theorem test_illFormed_row0Base : Config.wf { cols := 16, row0Base := 0x81#8 } = false := by decide
theorem test_illFormed_row1Base : Config.wf { cols := 16, row1Base := 0x94#8 } = false := by decide
theorem test_illFormed_rows : Config.wf { cols := 16, rows := 4 } = false := by decide
-- R5: pairwise distinct positions.
theorem test_illFormed_positions : Config.wf { cols := 16, posRs := 2 } = false := by decide
-- R111, and V-I5: 99 for T_G2_US.
theorem test_illFormed_tPower : Config.wf { cols := 16, tPowerUs := 39999 } = false := by decide
theorem test_illFormed_tG1 : Config.wf { cols := 16, tG1Us := 4099 } = false := by decide
theorem test_illFormed_tG2 : Config.wf { cols := 16, tG2Us := 99 } = false := by decide
theorem test_illFormed_tClr : Config.wf { cols := 16, tClrUs := 1599 } = false := by decide
-- R56: legal words match a row, the others none.
theorem test_wordLegal : [0x10FF#16, 0x2000#16, 0x31FF#16, 0x4000#16].all wordLegal = true := by decide
theorem test_wordIllegal :
    [0x0000#16, 0x1100#16, 0x2800#16, 0x3200#16, 0x4001#16, 0x4100#16, 0x5000#16].any wordLegal = false := by decide

/-! ### Decoding: words written out bit by bit from the patterns of R56 -/

theorem test_decode_cmd : decode 0b0001000000101000#16 = .op (.cmd 0x28#8) := by decide
theorem test_decode_data : decode 0b0010000001001101#16 = .op (.data 0x4D#8) := by decide
theorem test_decode_setcur_row0 : decode 0b0011000001111111#16 = .op (.setcur 0#1 0x7F#8) := by decide
theorem test_decode_setcur_row1 : decode 0b0011000111111111#16 = .op (.setcur 1#1 0xFF#8) := by decide
theorem test_decode_init : decode 0b0100000000000000#16 = .op .init := by decide
-- R66's four classes.
theorem test_decode_illegal :
    [0x5000#16, 0x1100#16, 0x3200#16, 0x4001#16].map decode =
      [.illegal .reservedOpcode, .illegal .auxNotZero, .illegal .rowAuxNotZero, .illegal .initOperandNotZero] := by
  decide
-- R68's words.
theorem test_encode :
    [Instr.cmd 0x28#8, .data 0x4D#8, .setcur 1#1 0x05#8, .init].map encode =
      [0x1028#16, 0x204D#16, 0x3105#16, 0x4000#16] := by decide
theorem test_decodeTableWord : decodeTableWord 16 0x3105 = some (.setcur 1#1 0x05#8) := by decide

/-! ### Frames and event lists (vectors of 95_test_vectors.md L2.2 to L2.5) -/

-- V-C: CMD 0x28.
theorem test_events_cmd : eventsOf config (.cmd 0x28#8) = [.xfer [0x2C#8, 0x28#8], .xfer [0x8C#8, 0x88#8]] := by decide
-- V-T: DATA 'M'.
theorem test_events_data : eventsOf config (.data 0x4D#8) = [.xfer [0x4D#8, 0x49#8, 0xDD#8, 0xD9#8]] := by decide
-- V-S9, V-S10: SETCUR 1, 0x40 wraps to 0x00; SETCUR 1, 0xFF to 0xBF.
theorem test_events_setcur :
    eventsOf config (.setcur 1#1 0x40#8) = [.xfer [0x0C#8, 0x08#8], .xfer [0x0C#8, 0x08#8]] ∧
      eventsOf config (.setcur 1#1 0xFF#8) = [.xfer [0xBC#8, 0xB8#8], .xfer [0xFC#8, 0xF8#8]] := by decide
-- V-I3: INIT under PER_BYTE_OP, in full.
theorem test_events_init :
    eventsOf (config .perByteOp) .init =
      [.wait 50000, .xfer [0x0C#8, 0x08#8, 0x3C#8, 0x38#8], .wait 5000, .xfer [0x0C#8, 0x08#8, 0x3C#8, 0x38#8],
        .wait 1000, .xfer [0x0C#8, 0x08#8, 0x3C#8, 0x38#8], .xfer [0x0C#8, 0x08#8, 0x2C#8, 0x28#8],
        .xfer [0x2C#8, 0x28#8, 0x8C#8, 0x88#8], .xfer [0x0C#8, 0x08#8, 0xCC#8, 0xC8#8],
        .xfer [0x0C#8, 0x08#8, 0x6C#8, 0x68#8], .xfer [0x0C#8, 0x08#8, 0x1C#8, 0x18#8], .wait 5000] := by decide
-- R23, R18: the codes of the registers.
theorem test_codes :
    [Status.none, .ok, .failTransport, .failIllegal].map statusCode = [0#2, 1#2, 2#2, 3#2] ∧
      [Phase.idle, .busy].map phaseCode = [0#1, 1#1] ∧ ∀ v : BitVec 2, statusCode (statusOfCode v) = v := by decide
-- R62, R42: the address byte 0x4E.
theorem test_addressByte : addressByte 0x27#7 = 0x4E#8 := by decide
theorem test_wireItems : wireItems 0x27#7 [0x2C#8, 0x28#8] =
    [.start, .byte 0x4E#8, .byte 0x2C#8, .byte 0x28#8, .stop] := by decide
-- V-W1, V-W2.
theorem test_wireTime : eventMicros config (.xfer [0#8, 0#8]) = 270 ∧
    eventMicros config (.xfer [0#8, 0#8, 0#8, 0#8]) = 450 := by decide
-- R99, R93: the host's duties on 16 columns; R144: after clear-display 1600.
theorem test_duties : printDuty config 11#8 [0#8, 0#8, 0#8, 0#8, 0#8] = true ∧
    printDuty config 12#8 [0#8, 0#8, 0#8, 0#8, 0#8] = false ∧ columnDuty config (.setcur 0#1 16#8) = false ∧
    hostWaitMicros (.cmd 0x01#8) = 1600 := by decide

/-! ### One step (vectors of L2.7 and L2.8) -/

-- V-P1, first and second step of CMD 0x28.
theorem test_step_cmd_accept :
    after (step (idleWith [0x1028#16])) (fun t => (t.phase, t.req, t.eidx, t.status)) =
      some (.busy, 0x1028#16, 0#6, .none) := by decide
theorem test_step_cmd_xfer :
    after (step (busyWith (.cmd 0x28#8) 1 [.ok])) (fun t => (t.port, t.eidx)) = some (0x88#8, 2#6) := by decide
-- V-P2: DATA 'M' latches 0x4 and then 0xD, as data, and then completes.
theorem test_step_data_xfer :
    after (step (busyWith (.data 0x4D#8) 0 [.ok])) (fun t => (t.port, t.latched)) =
      some (0xD9#8, [⟨true, 0x4#4⟩, ⟨true, 0xD#4⟩]) := by decide
theorem test_step_data_complete :
    after (step (busyWith (.data 0x4D#8) 1 [])) (fun t => (t.phase, t.eidx, t.status)) =
      some (.idle, 1#6, .ok) := by decide
-- R89: SETCUR 1, 0 sends 0xC0.
theorem test_step_setcur_xfer :
    after (step (busyWith (.setcur 1#1 0x00#8) 0 [.ok])) (fun t => (t.port, t.log)) =
      some (0xC8#8, [.memWrite 0x27#7 [0xCC#8, 0xC8#8] .ok [0xCC#8, 0xC8#8]]) := by decide
-- V-G1 and the first wait of INIT.
theorem test_step_init_wait :
    after (step (busyWith .init 0 [])) (fun t => (t.eidx, t.log)) = some (1#6, [.delay 50000]) := by decide
-- V-P4: an illegal word.
theorem test_step_illegal :
    after (step (idleWith [0x5000#16])) (fun t => (t.phase, t.req, t.eidx, t.log)) =
      some (.idle, 0x5000#16, 0#6, [.request 0x5000#16, .response .failIllegal]) := by decide
-- V-P5: a word presented while BUSY is held.
theorem test_step_held :
    after (step { busyWith (.data 0x4D#8) 0 [.ok] with requests := [0x1028#16] }) (fun t => (t.req, t.requests)) =
      some (0x204D#16, [0x1028#16]) := by decide
-- V-F2: the enable line stays high and nothing is latched; EIDX stays 0.
theorem test_step_fail_first :
    after (step (busyWith (.cmd 0x28#8) 0 [.fail 1])) (fun t => (t.port, t.latched, t.eidx, t.status)) =
      some (0x2C#8, [], 0#6, .failTransport) := by decide
-- V-F5: the high nibble is latched as data.
theorem test_step_fail_second :
    after (step (busyWith (.data 0x4D#8) 0 [.fail 2])) (fun t => (t.port, t.latched, t.ctrl)) =
      some (0x49#8, [⟨true, 0x4#4⟩], .poweredOnUnknown) := by decide
-- V-F9: the transport never returns.
theorem test_step_never : step (busyWith (.cmd 0x28#8) 0 [.never]) = .fault .transportNeverReturns := rfl
-- P2 of L3, its step 3: 0x0C keeps EN high, and 0x08 after it latches nibble 0 with RS = 0.
theorem test_deliver_recovery :
    let s : State := deliver [0x0C#8, 0x08#8] { idleWith [] with port := 0x2D#8 }
    (s.port, s.latched) = (0x08#8, [⟨false, 0x0#4⟩]) := by decide
-- R137: a reset that abandons an operation makes CTRL unknown; an idle block's CTRL stays.
theorem test_step_reset_busy :
    after (step { busyWith (.cmd 0x28#8) 1 [] with resets := [some 1], ctrl := .clearedReady })
      (fun t => (t.phase, t.ctrl, t.port)) = some (.idle, .poweredOnUnknown, 0x8C#8) := by decide
theorem test_step_reset_idle :
    after (step { idleWith [] with resets := [some 3], ctrl := .clearedReady }) (fun t => (t.ctrl, t.port)) =
      some (.clearedReady, 0x00#8) := by decide
-- V-I5: a configuration with T_G2_US = 99 is refused.
theorem test_step_refused :
    step { idleWith [] with cfg := { cols := 16, tG2Us := 99 } } = .refused .illFormedConfig := rfl
-- V-R1, and V-R2's words.
theorem test_printWords : printWords [] = [] ∧ printWords [0x41#8, 0x42#8] = [0x2041#16, 0x2042#16] := by decide
-- V-R3's failing code: PRINT of one code whose transaction fails.
theorem test_print_fails :
    (match printText [0x42#8, 0x43#8] { idleWith [] with answers := [.fail 1] } with
      | .next (t, r) => some (r, t.req, t.port)
      | .fault _ => none
      | .refused _ => none) = some (.response .failTransport, 0x2042#16, 0x4D#8) := by decide

/-- What a PRINT of the one code 0x41 has, and the words still presented after it. -/
def printed (s : State) : Option (Reply × List ReqWord) :=
  match printText [0x41#8] s with
  | .next (t, r) => some (r, t.requests)
  | .fault _ => none
  | .refused _ => none

-- R136, R26: a reset in the step that presents the word takes no word; the host still gets its response.
theorem test_print_over_reset :
    printed { idleWith [] with answers := [.ok], resets := [some 0] } = some (.response .ok, []) := by decide
-- R136, R29: a reset after the word was taken: no response.
theorem test_print_abandoned :
    printed { idleWith [] with resets := [none, some 1] } = some (.abandoned, []) := by decide
-- R26: a word presented while the block is BUSY is held; its own response is the second one.
theorem test_print_held :
    printed { busyWith (.cmd 0x28#8) 0 [.fail 1, .ok] with requests := [0x4000#16] } =
      some (.response .ok, [0x4000#16]) := by decide
-- R155 c and d: INIT's OK; then an illegal word, a failure, a reset of an idle block.
theorem test_initStands :
    let ok : List Obs := [.request 0x4000#16, .delay 5000, .response .ok]
    [[], ok.take 2, ok, ok ++ [.request 0x5000#16, .response .failIllegal],
        ok ++ [.request 0x2041#16, .response .failTransport], ok ++ [.reset],
        [.request 0x1028#16, .response .ok]].map initStands = [false, false, true, true, false, false, false] := by decide
-- R144: 1600 microseconds after clear-display, also across an illegal word (P4 of L3); and R149.
theorem test_duties_kept :
    let s : State :=
      { idleWith [] with log := [.request 0x1001#16, .response .ok, .request 0x5000#16, .request 0x300F#16] }
    dutiesKept ⟨true, [1600], [(15#8, [0x41#8])]⟩ s = true ∧ dutiesKept ⟨true, [1599], []⟩ s = false ∧
      dutiesKept ⟨true, [1600], [(15#8, [0x41#8, 0x42#8])]⟩ s = false ∧ dutiesKept ⟨true, [], []⟩ s = false := by decide
-- The opcode table's words, as the first step after reset.
theorem test_fetch_cmd :
    after (step (State.reset.withFetchWord 16 0x1028)) (fun t => (t.phase, t.req)) = some (.busy, 0x1028#16) := by decide
theorem test_fetch_data :
    after (step (State.reset.withFetchWord 16 0x204D)) (fun t => (t.phase, t.req)) = some (.busy, 0x204D#16) := by decide
theorem test_fetch_setcur :
    after (step (State.reset.withFetchWord 16 0x3105)) (fun t => (t.phase, t.req)) = some (.busy, 0x3105#16) := by decide
theorem test_fetch_init :
    after (step (State.reset.withFetchWord 16 0x4000)) (fun t => (t.phase, t.req)) = some (.busy, 0x4000#16) := by decide

/-! ### Witnesses: states and operands that meet each statement's hypotheses, clause by clause -/

/-- An idle block in the invariant. -/
theorem idleWith_inv (words : List ReqWord) (g : Grouping) : (idleWith words g).Inv := by
  unfold State.Inv regsInv traceInv portInv enableInv readyInv
  refine ⟨⟨?_, ?_⟩, ?_, ?_, ?_, ?_, ?_⟩
  · cases g <;> rfl
  · intro h; cases h
  · intro h; cases h
  · intro b h; cases h
  · intro h; cases h
  · intro h; cases h
  · intro h; cases h

/-- A block that has just accepted CMD 0x28. -/
def accepted (a : List TransportAnswer) : State :=
  { busyWith (.cmd 0x28#8) 0 a with log := [.request 0x1028#16] }

theorem accepted_inv (a : List TransportAnswer) : (accepted a).Inv := by
  unfold State.Inv regsInv traceInv portInv enableInv readyInv
  have hd : decode (encode (.cmd 0x28#8)) = .op (.cmd 0x28#8) := by decide
  have he : encode (.cmd 0x28#8) = 0x1028#16 := by decide
  refine ⟨⟨rfl, fun _ => ⟨rfl, .cmd 0x28#8, hd, Nat.zero_le _⟩⟩, ?_, ?_, ?_, ?_, ?_⟩
  · intro _ i _
    refine ⟨[], ?_⟩
    show [Obs.request 0x1028#16] = [] ++ Obs.request (encode (.cmd 0x28#8)) :: []
    rw [he]; rfl
  · intro b h; cases h
  · intro h; cases h
  · intro _ h
    have h' : decode (encode (.cmd 0x28#8)) = .op .init := h
    rw [hd] at h'; cases h'
  · intro h; cases h

theorem witness_StepKeepsInvariant :
    ∃ s t : State, s.Inv ∧ s.phase = .busy ∧ step s = .next t :=
  ⟨_, _, accepted_inv [.ok], rfl, rfl⟩

theorem witness_StepStopsOnlyWhereTransportNeverReturns :
    (∃ s t : State, s.Inv ∧ step s = .next t) ∧
      ∃ s : State, s.Inv ∧ step s = .fault .transportNeverReturns ∧ nextAnswer s = .never :=
  ⟨⟨_, _, accepted_inv [.ok], rfl⟩, ⟨_, accepted_inv [.never], rfl, rfl⟩⟩

theorem witness_StepRunsThePresentedRequest :
    let s := idleWith [0x31FF#16, 0x4000#16]
    s.cfg.wf = true ∧ resetLow s = true ∧ s.phase = .idle ∧ s.requests = 0x31FF#16 :: [0x4000#16] ∧
      decode 0x31FF#16 = .op (.setcur 1#1 0xFF#8) := by decide

theorem witness_StepRunsTheCurrentOperation :
    let s := busyWith .init 19 []
    s.cfg.wf = true ∧ resetLow s = true ∧ s.phase = .busy ∧ decode s.req = .op .init := by decide

theorem witness_IdleBlockKeepsItsState :
    let s := idleWith []
    s.cfg.wf = true ∧ resetLow s = true ∧ s.phase = .idle ∧ s.requests = [] := by decide

theorem witness_IllegalWordIsAnsweredFailIllegal :
    let s := idleWith [0x3200#16]
    s.cfg.wf = true ∧ resetLow s = true ∧ s.phase = .idle ∧ s.requests = 0x3200#16 :: [] ∧
      decode 0x3200#16 = .illegal .rowAuxNotZero := by decide

-- One state for each minimum, at the value below it.
theorem witness_ConfigurationBelowMinimumIsRefused :
    Config.tPowerUs { cols := 16, tPowerUs := 39999 } < 40000 ∧ Config.tG1Us { cols := 16, tG1Us := 4099 } < 4100 ∧
      Config.tG2Us { cols := 16, tG2Us := 99 } < 100 ∧ Config.tClrUs { cols := 16, tClrUs := 1599 } < 1600 := by
  decide

theorem witness_OnlyAnIllFormedConfigurationIsRefused : ∃ (s : State) (r : Refusal), step s = .refused r :=
  ⟨_, _, test_step_refused⟩

-- A reset between two events of INIT; one in its first wait, with a stale count; one in an idle block.
theorem witness_ResetClearsTheSequencer :
    (let s : State := { busyWith .init 2 [] with resets := [some 0] };
      s.cfg.wf = true ∧ s.resets.head? = some (some 0)) ∧
      (let s : State := { busyWith .init 0 [] with resets := [some 2] };
        s.cfg.wf = true ∧ s.resets.head? = some (some 2) ∧ ∀ bs, currentEvent s ≠ some (.xfer bs)) ∧
      (let s : State := { idleWith [] with resets := [some 1] };
        s.cfg.wf = true ∧ s.resets.head? = some (some 1) ∧ ∀ bs, currentEvent s ≠ some (.xfer bs)) := by
  refine ⟨by decide, ⟨by decide, by decide, fun bs h => ?_⟩, by decide, by decide, fun bs h => ?_⟩
  · cases h
  · cases h

-- The least and the greatest number of bytes of a four-byte transaction.
theorem witness_ResetAbandonsTransactionInFlight :
    (let s : State := { busyWith (.data 0x4D#8) 0 [] with resets := [some (0 + 1)] };
      s.cfg.wf = true ∧ s.resets.head? = some (some (0 + 1)) ∧
        currentEvent s = some (.xfer [0x4D#8, 0x49#8, 0xDD#8, 0xD9#8])) ∧
      (let s : State := { busyWith (.data 0x4D#8) 0 [] with resets := [some (3 + 1)] };
        s.cfg.wf = true ∧ s.resets.head? = some (some (3 + 1)) ∧
          currentEvent s = some (.xfer [0x4D#8, 0x49#8, 0xDD#8, 0xD9#8])) := by decide

theorem witness_RequestVectorsDecode :
    0xFFFF#16 ∈
      [0x0000#16, 0x1100#16, 0x2800#16, 0x3200#16, 0x3E00#16, 0x4001#16, 0x4100#16, 0x5000#16, 0xFFFF#16] := by decide

theorem witness_LegalWordIsTheEncodingOfItsRequest :
    decode 0x10FF#16 = .op (.cmd 0xFF#8) ∧ decode 0x2000#16 = .op (.data 0x00#8) ∧
      decode 0x31FF#16 = .op (.setcur 1#1 0xFF#8) ∧ decode 0x4000#16 = .op .init := by decide

-- The sides of each equivalence, at the edges of the row.
theorem witness_WordIsLegalExactlyWhenItMatchesARow :
    (0x10FF#16 &&& 0xFF00#16 = 0x1000#16) ∧ (0x2000#16 &&& 0xFF00#16 = 0x2000#16) ∧
      (0x31FF#16 &&& 0xFE00#16 = 0x3000#16) ∧ (0x4000#16 &&& 0xFFFF#16 = 0x4000#16) ∧
      (0x3200#16 &&& 0xFE00#16 ≠ 0x3000#16) ∧ (0x4001#16 &&& 0xFFFF#16 ≠ 0x4000#16) := by decide

-- Each class of R66 at its edges: opcodes 0, 5, 15; AUX 1; AUX 2; PAY 1 and AUX 1.
theorem witness_IllegalWordsFallInFourClasses :
    [0x0FFF#16, 0x5000#16, 0xFFFF#16].map decode = List.replicate 3 (.illegal .reservedOpcode) ∧
      [0x1100#16, 0x2F00#16].map decode = List.replicate 2 (.illegal .auxNotZero) ∧
      [0x3200#16, 0x3F00#16].map decode = List.replicate 2 (.illegal .rowAuxNotZero) ∧
      [0x4001#16, 0x4100#16].map decode = List.replicate 2 (.illegal .initOperandNotZero) := by decide

/-- A wiring that is not the default one. -/
def otherWiring : Config :=
  { cols := 20, posRs := 3, posRw := 2, posEn := 1, posBl := 0, bl := false, rwW := true, group := .perFrame }

theorem witness_ControlNibblePlacesFourLines :
    otherWiring.wf = true ∧ [3, 2, 1, 0, 4].map (fun k => (ctlNibble otherWiring true true).getLsbD k) =
      [true, true, true, false, false] := by decide

theorem witness_GroupingTable :
    (config .source).group = .source ∧ (config .perNibble).group = .perNibble ∧
      (config .perByteOp).group = .perByteOp ∧ (config .perFrame).group = .perFrame := by decide

theorem witness_EnablePulsePairing : otherWiring.wf = true ∧ 0 ≠ otherWiring.posEn.val ∧ 7 ≠ otherWiring.posEn.val := by
  decide

theorem witness_RegisterSelectIsOneExactlyForData :
    otherWiring.wf = true ∧ (∃ f, f ∈ bytesOf (eventsOf otherWiring (.cmd 0xFF#8))) ∧
      (∃ f, f ∈ bytesOf (eventsOf otherWiring (.setcur 1#1 0xFF#8))) ∧
      (∃ f, f ∈ bytesOf (eventsOf otherWiring .init)) ∧
      ∃ f, f ∈ bytesOf (eventsOf otherWiring (.data 0x00#8)) :=
  ⟨by decide, ⟨_, List.mem_cons_self ..⟩, ⟨_, List.mem_cons_self ..⟩, ⟨_, List.mem_cons_self ..⟩,
    ⟨_, List.mem_cons_self ..⟩⟩

theorem witness_ReadWriteAndBacklightAreConstant :
    otherWiring.wf = true ∧ ∃ f, f ∈ bytesOf (eventsOf otherWiring (.data 0xFF#8)) :=
  ⟨by decide, _, List.mem_cons_self ..⟩

theorem witness_OnlyFourControlNibblesAreSent :
    0x0C#8 ∈ bytesOf (eventsOf { cols := 16 } .init) ∧ 0x49#8 ∈ bytesOf (eventsOf { cols := 16 } (.data 0x4D#8)) := by
  decide

theorem witness_TransactionWidths :
    Event.xfer [0x2C#8] ∈ eventsOf (config .perFrame) (.cmd 0x28#8) ∧
      Event.xfer [0x4D#8, 0x49#8, 0xDD#8, 0xD9#8] ∈ eventsOf (config .source) (.data 0x4D#8) ∧
      (config .source).group = .source := by decide

-- The last column before each wrap, and the first after it.
theorem witness_SetcurSendsBasePlusColumn :
    (config).wf = true ∧ (0x7F#8).toNat < 0x80 ∧ 0x80 ≤ (0x80#8).toNat ∧ (0x3F#8).toNat < 0x40 ∧
      0x40 ≤ (0x40#8).toNat ∧
      [cursorCommand config 0#1 0x7F#8, cursorCommand config 0#1 0x80#8, cursorCommand config 1#1 0x3F#8,
        cursorCommand config 1#1 0x40#8] = [0xFF#8, 0x00#8, 0xFF#8, 0x00#8] := by decide

theorem witness_InitWaitsStandWhereMandated :
    Config.wf { cols := 16, tPowerUs := 40000, tG1Us := 4100, tG2Us := 100, tClrUs := 1600, group := .perFrame } =
      true := by decide

theorem witness_InitCounts :
    [Grouping.source, .perNibble, .perByteOp, .perFrame].map (fun g => (eventsOf (config g) .init).length) =
      [20, 20, 12, 36] := by decide

theorem witness_InitSendsItsEightCommandsInOrder :
    otherWiring.wf = true ∧ ∃ f, f ∈ bytesOf (eventsOf otherWiring .init) :=
  ⟨by decide, _, List.mem_cons_self ..⟩

-- V-G1 to V-G5: acceptance; events 8, 10, 16 and 19 under SOURCE; an event between; and a failure.
theorem witness_CtrlMovesAtInitsPoints :
    after (exec .init { idleWith [] with ctrl := .clearedReady }) (fun t => t.ctrl) = some .poweredOnUnknown ∧
      [8, 10, 16, 19, 9].map (fun k => after (exec .init (busyWith .init k [.ok])) (fun t => t.ctrl)) =
        [some .eightBitProbed, some .fourBitCommitted, some .configured, some .clearedReady,
          some .poweredOnUnknown] ∧
      after (exec .init { busyWith .init 10 [.fail 2] with ctrl := .eightBitProbed }) (fun t => t.ctrl) =
        some .poweredOnUnknown ∧
      [8, 10, 16, 19, 9].all (fun k => decide ((busyWith .init k [.ok]).phase = .busy) &&
        decide ((busyWith .init k [.ok]).eidx.toNat = k) && decide (k < (eventsOf config .init).length)) = true := by
  decide

theorem witness_EveryRequestIsAcceptedWhenIdle : (idleWith []).phase = .idle := rfl

/-- The hypotheses that the event statements of CMD, DATA and SETCUR share. -/
def runsAt (s : State) (k : BitVec 6) : Prop :=
  s.cfg.wf = true ∧ s.phase = .busy ∧ s.eidx = k

theorem witness_CmdSendsHighThenLowNibble :
    (runsAt (busyWith (.cmd 0x28#8) 0 [.ok]) 0#6 ∧ nextAnswer (busyWith (.cmd 0x28#8) 0 [.ok]) = .ok) ∧
      (runsAt (busyWith (.cmd 0x28#8) 1 [.ok] .perNibble) 1#6 ∧
        nextAnswer (busyWith (.cmd 0x28#8) 1 [.ok] .perNibble) = .ok) ∧
      runsAt (busyWith (.cmd 0x28#8) 2 []) 2#6 ∧
      (busyWith (.cmd 0x28#8) 0 [.ok]).cfg.group = .source ∧
      (busyWith (.cmd 0x28#8) 1 [.ok] .perNibble).cfg.group = .perNibble := by
  unfold runsAt; decide

theorem witness_DataSendsOneTransactionOfFourFrames :
    (runsAt (busyWith (.data 0x4D#8) 0 [.ok]) 0#6 ∧ nextAnswer (busyWith (.data 0x4D#8) 0 [.ok]) = .ok) ∧
      runsAt (busyWith (.data 0x4D#8) 1 [] .perByteOp) 1#6 ∧
      (busyWith (.data 0x4D#8) 0 [.ok]).cfg.group = .source ∧
      (busyWith (.data 0x4D#8) 1 [] .perByteOp).cfg.group = .perByteOp := by
  unfold runsAt; decide

theorem witness_SetcurSendsItsCommandByte :
    (runsAt (busyWith (.setcur 1#1 0xFF#8) 0 [.ok]) 0#6 ∧
        nextAnswer (busyWith (.setcur 1#1 0xFF#8) 0 [.ok]) = .ok) ∧
      (runsAt (busyWith (.setcur 0#1 0x00#8) 1 [.ok] .perNibble) 1#6 ∧
        nextAnswer (busyWith (.setcur 0#1 0x00#8) 1 [.ok] .perNibble) = .ok) ∧
      runsAt (busyWith (.setcur 0#1 0x80#8) 2 []) 2#6 ∧
      (busyWith (.setcur 1#1 0xFF#8) 0 [.ok]).cfg.group = .source ∧
      (busyWith (.setcur 0#1 0x00#8) 1 [.ok] .perNibble).cfg.group = .perNibble := by
  unfold runsAt; decide

-- INIT's first wait, its first transaction, its last wait, and its end.
theorem witness_InitPerformsItsEventsInOrder :
    (config).wf = true ∧
      [0, 1, 19].map (fun k => (eventsOf config .init)[(busyWith .init k [.ok]).eidx.toNat]?) =
        [some (.wait 50000), some (.xfer [0x0C#8, 0x08#8]), some (.wait 5000)] ∧
      nextAnswer (busyWith .init 1 [.ok]) = .ok ∧
      (busyWith .init 20 []).eidx.toNat = (eventsOf config .init).length ∧ (busyWith .init 20 []).phase = .busy := by
  decide

theorem witness_CompletedTransactionAdvancesTheSequencer :
    let s := busyWith (.data 0x4D#8) 3 [.ok] .perFrame
    s.phase = .busy ∧ (eventsOf s.cfg (.data 0x4D#8))[s.eidx.toNat]? = some (.xfer [0xD9#8]) ∧ nextAnswer s = .ok ∧
      Instr.data 0x4D#8 ≠ .init := by decide

theorem witness_WaitCompletesAndAdvances :
    let s := busyWith .init 6 []
    s.phase = .busy ∧ (eventsOf s.cfg .init)[s.eidx.toNat]? = some (.wait 1000) := by decide

-- Nothing delivered, and all bytes delivered (V-F1, V-F6).
theorem witness_TransportFailureEndsTheRequest :
    (let s : State := busyWith (.cmd 0x28#8) 0 [.fail 0];
      s.phase = .busy ∧ (eventsOf s.cfg (.cmd 0x28#8))[s.eidx.toNat]? = some (.xfer [0x2C#8, 0x28#8]) ∧
        nextAnswer s = .fail 0) ∧
      (let s : State := busyWith (.data 0x4D#8) 0 [.fail 4];
        s.phase = .busy ∧
          (eventsOf s.cfg (.data 0x4D#8))[s.eidx.toNat]? = some (.xfer [0x4D#8, 0x49#8, 0xDD#8, 0xD9#8]) ∧
          nextAnswer s = .fail 4) := by decide

theorem witness_HungTransportIsStuck :
    let s := busyWith .init 1 [.never]
    s.phase = .busy ∧ (eventsOf s.cfg .init)[s.eidx.toNat]? = some (.xfer [0x0C#8, 0x08#8]) ∧
      nextAnswer s = .never := by decide

theorem witness_LastEventIsFollowedByOk :
    let s := busyWith .init 36 [] .perFrame
    s.phase = .busy ∧ s.eidx.toNat = (eventsOf s.cfg .init).length := by decide

-- A falling enable with the same nibble and RS, and with another; a high enable; an enable that was low before.
theorem witness_FallingEnableLatchesOneNibble :
    (enLine config 0x2C#8 = true ∧ enLine config 0x28#8 = false ∧ hiNibble 0x28#8 = hiNibble 0x2C#8 ∧
        rsLine config 0x28#8 = rsLine config 0x2C#8) ∧
      (enLine config 0x2C#8 = true ∧ enLine config 0x08#8 = false ∧ hiNibble 0x08#8 ≠ hiNibble 0x2C#8) ∧
      enLine config 0x0C#8 = true ∧ enLine config 0x00#8 = false := by decide

-- A step with a transaction, and a step without one.
theorem witness_RequestFrame :
    (∃ t, exec (.cmd 0x28#8) (busyWith (.cmd 0x28#8) 0 [.ok]) = .next t) ∧
      ∃ t, exec .init (busyWith .init 0 []) = .next t ∧ t.log = [] ++ [.delay 50000] ∧
        deliveredSeen [.delay 50000] = [] ∧ ∀ o ∈ [Obs.delay 50000], ∀ a bs r d, o ≠ .memWrite a bs r d :=
  ⟨⟨_, rfl⟩, _, rfl, rfl, rfl, fun o h a bs r d => by
    rw [List.mem_singleton.mp h]; exact fun h' => by cases h'⟩

theorem witness_RequestRunsToCompletion :
    let s : State := { idleWith [encode .init] with
      answers := List.replicate 16 .ok ++ [.never], resets := List.replicate 22 none ++ [some 0] }
    s.cfg.wf = true ∧ s.phase = .idle ∧ NoReset ((eventsOf s.cfg .init).length + 2) s ∧ s.requests = encode .init :: [] ∧
      s.answers = List.replicate (xferCount (eventsOf s.cfg .init)) .ok ++ [.never] := by unfold NoReset; decide

-- V-F8: INIT fails at event 9, having delivered 2 bytes.
theorem witness_FailedRequestStopsAtItsEvent :
    let s : State := { idleWith [encode .init] with answers := List.replicate 6 .ok ++ [.fail 2] }
    s.cfg.wf = true ∧ s.phase = .idle ∧ NoReset (9 + 2) s ∧ s.requests = encode .init :: [] ∧
      (eventsOf s.cfg .init)[9]? = some (.xfer [0x0C#8, 0x08#8]) ∧
      s.answers = List.replicate (xferCount ((eventsOf s.cfg .init).take 9)) .ok ++ .fail 2 :: [] := by unfold NoReset; decide

theorem witness_NoStepWritesTheConfiguration : ∃ t, step (busyWith (.cmd 0x28#8) 0 [.ok]) = .next t := ⟨_, rfl⟩

-- REQ holds still; REQ takes the presented word; REQ is reset.
theorem witness_RequestWordHoldsStill :
    after (step (busyWith (.cmd 0x28#8) 0 [.ok])) (fun t => t.req) = some 0x1028#16 ∧
      after (step (idleWith [0x1028#16])) (fun t => (t.req, t.requests)) = some (0x1028#16, []) ∧
      after (step { busyWith (.cmd 0x28#8) 1 [] with resets := [some 0] }) (fun t => t.req) = some 0x0000#16 := by
  decide

theorem witness_EventIndexCountsUpByOne :
    (∃ s t : State, s.Inv ∧ step s = .next t ∧ t.phase = .busy ∧ s.phase = .idle) ∧
      ∃ s t : State, s.Inv ∧ step s = .next t ∧ t.phase = .busy ∧ s.phase = .busy :=
  ⟨⟨_, _, idleWith_inv [0x1028#16] .source, rfl, rfl, rfl⟩, ⟨_, _, accepted_inv [.ok], rfl, rfl, rfl⟩⟩

-- A step without a response, and one with each of the three.
theorem witness_ResponseIsTheFinalStatus :
    [busyWith (.cmd 0x28#8) 0 [.ok], busyWith (.cmd 0x28#8) 2 [], busyWith (.cmd 0x28#8) 0 [.fail 1],
        idleWith [0x0000#16]].map (fun s => after (step s) (fun t => responsesSeen t.log)) =
      [some [], some [.ok], some [.failTransport], some [.failIllegal]] := by decide

theorem witness_PresentedWordWaitsWhileBusy :
    (∃ s t : State, s.phase = .busy ∧ step s = .next t) ∧
      ∃ s : State, s.phase = .busy ∧ step s = .fault .transportNeverReturns :=
  ⟨⟨busyWith (.cmd 0x28#8) 0 [.ok], _, rfl, rfl⟩, ⟨busyWith (.cmd 0x28#8) 0 [.never], rfl, rfl⟩⟩

theorem witness_OnlyTheExpanderIsAddressed :
    ∃ t, step (busyWith (.cmd 0x28#8) 0 [.fail 1]) = .next t ∧
      t.log = [] ++ [.memWrite 0x27#7 [0x2C#8, 0x28#8] .fail [0x2C#8], .response .failTransport] :=
  ⟨_, rfl, by decide⟩

theorem witness_OnlyInitMakesTheDisplayReady :
    (busyWith .init 19 []).ctrl ≠ .clearedReady ∧
      after (step (busyWith .init 19 [])) (fun t => t.ctrl) = some .clearedReady := by decide

/-- An idle block whose INIT stands. -/
def readyState : State :=
  { idleWith [] with ctrl := .clearedReady, log := [.request 0x4000#16, .delay 5000, .response .ok] }

-- The launch premises of R155, all of them.
theorem witness_DisplayDefined :
    readyState.Inv ∧ readyState.phase = .idle ∧ DisplayDefined ⟨true, [], [(0#8, [0x41#8])]⟩ readyState := by
  refine ⟨?_, rfl, rfl, rfl, by decide, by decide⟩
  unfold State.Inv regsInv traceInv portInv enableInv readyInv
  refine ⟨⟨rfl, ?_⟩, ?_, ?_, ?_, ?_, fun _ => .inl rfl⟩
  · intro h; cases h
  · intro h; cases h
  · intro b h; cases h
  · intro h; cases h
  · intro h; cases h

-- A response, over a reset that comes before the word is taken; a reset after it; a transport that never returns.
theorem witness_IssuedRequestIsAnsweredOrAbandoned :
    (idleWith []).Inv ∧ (accepted [.ok, .ok, .ok]).Inv ∧ (accepted [.never]).Inv ∧
      printed { idleWith [] with answers := [.ok], resets := [some 0] } = some (.response .ok, []) ∧
      printed { idleWith [] with resets := [none, some 1] } = some (.abandoned, []) ∧
      issueRequest 0x2041#16 (accepted [.never]) = .fault .transportNeverReturns :=
  ⟨idleWith_inv _ _, accepted_inv _, accepted_inv _, test_print_over_reset, test_print_abandoned, rfl⟩

theorem witness_PrintSendsEachCodeInOrder :
    let s : State := { idleWith [] with answers := [.ok, .ok, .never], resets := List.replicate 6 none ++ [some 0] }
    let text : List Byte := [0x41#8, 0x42#8]
    s.cfg.wf = true ∧ s.phase = .idle ∧
      NoReset (text.map fun c => (eventsOf s.cfg (.data c)).length + 2).sum s ∧
      s.answers = List.replicate (text.map fun c => xferCount (eventsOf s.cfg (.data c))).sum .ok ++ [.never] := by unfold NoReset; decide

-- V-R3: the second code of "ABC" fails with one byte delivered.
theorem witness_PrintStopsAtTheFirstFailure :
    let s : State := { idleWith [] with answers := [.ok, .fail 1] }
    let before : List Byte := [0x41#8]
    s.cfg.wf = true ∧ s.phase = .idle ∧
      NoReset ((before.map fun x => (eventsOf s.cfg (.data x)).length + 2).sum + (0 + 2)) s ∧
      (eventsOf s.cfg (.data 0x42#8))[0]? = some (.xfer [0x4D#8, 0x49#8, 0x2D#8, 0x29#8]) ∧
      s.answers =
        List.replicate ((before.map fun x => xferCount (eventsOf s.cfg (.data x))).sum + 0) .ok ++
          .fail 1 :: [] := by unfold NoReset; decide

end Sys2Proof.Tests
end

section
/-!
PROOFS. What `exec` does to the state, for every request at once: it accepts the request, performs one event, or completes
(R25). Settles O34, O43, O39 and O45.
-/

namespace Sys2Proof.Machine

/-! ### An event that completes -/

/-- Delivering bytes, field by field: only the port and the latched nibbles move (R37, R47). -/
theorem deliver_eq_latched (bs : List Byte) (s : State) :
    deliver bs s = { s with port := portAfter bs s.port, latched := (deliver bs s).latched } := by
  obtain ⟨l, hl⟩ := deliver_eq bs s
  rw [hl]

/-- The state after the event `e` completed in full, a wait or a transaction that the transport answered `ok` (R25, R27,
R128). -/
def completeEvent (mark : Option Ctrl) (e : Event) (s : State) : State :=
  { s with
    eidx := s.eidx + 1#6, port := portAfter (eventBytes e) s.port, ctrl := mark.getD s.ctrl
    latched := (deliver (eventBytes e) s).latched, log := s.log ++ [doneObs s.cfg.addr7 e]
    answers := s.answers.drop (xferCount [e]), calls := s.calls + xferCount [e] }

@[simp] theorem xferCount_wait (us : Nat) : xferCount [.wait us] = 0 := rfl

@[simp] theorem xferCount_xfer (bs : List Byte) : xferCount [.xfer bs] = 1 := rfl

/-- A wait completes (R128). -/
theorem performWait_eq_completeEvent (m : Option Ctrl) (us : Nat) (s : State) :
    performWait m us s = completeEvent m (.wait us) s := rfl

/-- What the transport's `ok` makes of the state (R27, R119). -/
theorem okXfer_eq_completeEvent (m : Option Ctrl) (bs : List Byte) (s : State) :
    advance m (observe (callObs s bs .ok bs) (deliver bs (takeAnswer s))) = completeEvent m (.xfer bs) s := by
  have hl : (deliver bs (takeAnswer s)).latched = (deliver bs s).latched := deliver_latched_congr bs rfl rfl rfl
  rw [deliver_eq_latched bs (takeAnswer s), hl]
  rw [completeEvent, xferCount_xfer, List.drop_one]
  rfl

section
variable (m : Option Ctrl) (e : Event) (s : State)

@[simp] theorem completeEvent_cfg : (completeEvent m e s).cfg = s.cfg := rfl
@[simp] theorem completeEvent_phase : (completeEvent m e s).phase = s.phase := rfl
@[simp] theorem completeEvent_req : (completeEvent m e s).req = s.req := rfl
@[simp] theorem completeEvent_eidx : (completeEvent m e s).eidx = s.eidx + 1#6 := rfl
@[simp] theorem completeEvent_status : (completeEvent m e s).status = s.status := rfl
@[simp] theorem completeEvent_port : (completeEvent m e s).port = portAfter (eventBytes e) s.port := rfl
@[simp] theorem completeEvent_ctrl : (completeEvent m e s).ctrl = m.getD s.ctrl := rfl
@[simp] theorem completeEvent_log : (completeEvent m e s).log = s.log ++ [doneObs s.cfg.addr7 e] := rfl
@[simp] theorem completeEvent_requests : (completeEvent m e s).requests = s.requests := rfl
@[simp] theorem completeEvent_resets : (completeEvent m e s).resets = s.resets := rfl
@[simp] theorem completeEvent_answers : (completeEvent m e s).answers = s.answers.drop (xferCount [e]) := rfl
@[simp] theorem completeEvent_calls : (completeEvent m e s).calls = s.calls + xferCount [e] := rfl
@[simp] theorem completeEvent_latched : (completeEvent m e s).latched = (deliver (eventBytes e) s).latched := rfl

end

/-- A BUSY block completes the event at `EIDX`, where the transport answers `ok` if the event calls it (R25). -/
theorem runOperation_completes {op : Operation} {s : State} {e : Event} (hp : s.phase = .busy)
    (he : op.events[s.eidx.toNat]? = some e) (ha : isXfer e = true → nextAnswer s = .ok) :
    runOperation op s = .next (completeEvent (op.markAt s.eidx.toNat) e s) := by
  cases e with
  | wait us => rw [runOperation_wait hp he, performWait_eq_completeEvent]
  | xfer bs => rw [runOperation_xfer hp he, performXfer_ok (ha rfl), okXfer_eq_completeEvent]

/-- Settles O39: the transaction's event completes, and only INIT has an event that moves `CTRL`. -/
theorem completedTransactionAdvancesTheSequencer : Obligations.CompletedTransactionAdvancesTheSequencer := by
  unfold Obligations.CompletedTransactionAdvancesTheSequencer
  intro i s bs hp he ha
  refine ⟨((operationOf s.cfg i).markAt s.eidx.toNat).getD s.ctrl, ?_, fun hi => ?_⟩
  · rw [exec_eq, runOperation_completes hp he fun _ => ha, ← List.drop_one]
    rfl
  · rw [markAt_of_ne_init hi]
    rfl

/-! ### Acceptance and completion -/

/-- Settles O34: acceptance writes `PHASE`, `EIDX` and `STATUS`, and INIT's ghost. -/
theorem everyRequestIsAcceptedWhenIdle : Obligations.EveryRequestIsAcceptedWhenIdle := by
  unfold Obligations.EveryRequestIsAcceptedWhenIdle
  intro i s hp
  rw [exec_eq, runOperation_idle hp, acceptRequest, onAccept_operationOf]

/-- Settles O43: after the last event the sequencer responds `OK`. -/
theorem lastEventIsFollowedByOk : Obligations.LastEventIsFollowedByOk := by
  unfold Obligations.LastEventIsFollowedByOk
  intro i s hp he
  rw [exec_eq, runOperation_complete hp he]
  rfl

/-! ### The frame of a request -/

@[simp] theorem deliveredSeen_append (a b : List Obs) : deliveredSeen (a ++ b) = deliveredSeen a ++ deliveredSeen b :=
  List.flatMap_append

section
variable (l : List Obs)

@[simp] theorem deliveredSeen_nil : deliveredSeen [] = [] := rfl

@[simp] theorem deliveredSeen_response (r : Status) : deliveredSeen (.response r :: l) = deliveredSeen l := rfl

@[simp] theorem deliveredSeen_request (w : ReqWord) : deliveredSeen (.request w :: l) = deliveredSeen l := rfl

@[simp] theorem deliveredSeen_reset : deliveredSeen (.reset :: l) = deliveredSeen l := rfl

@[simp] theorem deliveredSeen_call (s : State) (bs d : List Byte) (r : CallResult) :
    deliveredSeen (callObs s bs r d :: l) = d ++ deliveredSeen l := rfl

@[simp] theorem deliveredSeen_done (a : Addr7) (e : Event) :
    deliveredSeen (doneObs a e :: l) = eventBytes e ++ deliveredSeen l := by
  cases e <;> rfl

end

/-- What an operation's step leaves alone, and what its new part of the log accounts for: the bytes delivered to the port,
and the transport calls. -/
def FrameKept (s t : State) : Prop :=
  t.cfg = s.cfg ∧ t.req = s.req ∧ t.requests = s.requests ∧ t.resets = s.resets ∧
    ∃ new, t.log = s.log ++ new ∧ t.port = portAfter (deliveredSeen new) s.port ∧
      (deliveredSeen new = [] → t.latched = s.latched) ∧
      ((∀ o ∈ new, ∀ a bs r d, o ≠ .memWrite a bs r d) → t.answers = s.answers ∧ t.calls = s.calls)

theorem frameKept_completeEvent (m : Option Ctrl) (e : Event) (s : State) : FrameKept s (completeEvent m e s) := by
  refine ⟨rfl, rfl, rfl, rfl, [doneObs s.cfg.addr7 e], rfl, by simp, fun hd => ?_, fun hn => ?_⟩
  · have he : eventBytes e = [] := by simpa using hd
    simp [he]
  · cases e with
    | wait us => exact ⟨rfl, rfl⟩
    | xfer bs => exact absurd rfl (hn _ (List.mem_singleton.mpr rfl) s.cfg.addr7 bs .ok bs)

/-- A failed call has shown itself and then the response (R115, R118). -/
theorem frameKept_failedXfer (bs sent : List Byte) (s : State) :
    FrameKept s (raiseError .transportFailure (observe (callObs s bs .fail sent) (deliver sent (takeAnswer s)))) := by
  refine ⟨by simp, by simp, by simp, by simp, [callObs s bs .fail sent, .response .failTransport],
    by simp [errorStatus], by simp, fun hd => ?_, fun hn => ?_⟩
  · have hs : sent = [] := by simpa using hd
    simp [hs]
  · exact absurd rfl (hn _ List.mem_cons_self s.cfg.addr7 bs .fail sent)

/-- Every next state of an operation keeps the frame. -/
theorem runOperation_frameKept {op : Operation} {s t : State} (h : runOperation op s = .next t) : FrameKept s t := by
  obtain ⟨-, rfl⟩ | ⟨-, -, rfl⟩ | ⟨us, -, -, rfl⟩ | ⟨bs, -, -, ⟨-, rfl⟩ | ⟨j, -, rfl⟩⟩ := runOperation_cases h
  · exact ⟨rfl, rfl, rfl, rfl, [], by simp, rfl, fun _ => rfl, fun _ => ⟨rfl, rfl⟩⟩
  · exact ⟨rfl, rfl, rfl, rfl, [.response .ok], rfl, rfl, fun _ => rfl, fun _ => ⟨rfl, rfl⟩⟩
  · exact frameKept_completeEvent _ (.wait us) s
  · rw [okXfer_eq_completeEvent]
    exact frameKept_completeEvent _ (.xfer bs) s
  · exact frameKept_failedXfer bs (bs.take j) s

/-- Settles O45: the frame of the request's operation. -/
theorem requestFrame : Obligations.RequestFrame := by
  unfold Obligations.RequestFrame
  intro i s t h
  rw [exec_eq] at h
  exact runOperation_frameKept h

end Sys2Proof.Machine
end

section
/-!
PROOFS. The next states of a step, one constructor each (R25, R136), and the whole-machine rules that follow from them.
Settles O5, O6, O48, O49, O50 and O51.
-/

namespace Sys2Proof.Machine

/-! ### The sequencer runs the request's operation -/

/-- An idle block takes the presented word and accepts the request it decodes to (R25). -/
theorem sequencerStep_accept {s : State} {w : ReqWord} {rest : List ReqWord} {i : Instr} (hp : s.phase = .idle)
    (hq : s.requests = w :: rest) (hd : decode w = .op i) :
    sequencerStep s = exec i (latchRequest w rest s) := by
  simp [sequencerStep, acceptStep, hp, hq, hd]

/-- A BUSY block runs the operation in `REQ` (R20). -/
theorem sequencerStep_busy {s : State} {i : Instr} (hp : s.phase = .busy) (hd : decode s.req = .op i) :
    sequencerStep s = exec i s := by
  simp [sequencerStep, hp, hd]

/-- Settles O5: the word is latched and the operation runs. -/
theorem stepRunsThePresentedRequest : Obligations.StepRunsThePresentedRequest := by
  unfold Obligations.StepRunsThePresentedRequest
  intro s w rest i hw hr hp hq hd
  rw [step_sequencer hw hr, sequencerStep_accept (s := takeReset s) hp hq hd]
  rfl

/-- Settles O6: the operation that `REQ` decodes to runs. -/
theorem stepRunsTheCurrentOperation : Obligations.StepRunsTheCurrentOperation := by
  unfold Obligations.StepRunsTheCurrentOperation
  intro s i hw hr hp hd
  rw [step_sequencer hw hr, sequencerStep_busy (s := takeReset s) hp hd]
  rfl

/-! ### The next states of a step -/

/-- The next states of a step. -/
inductive StepTo (s : State) : State → Prop
  /-- A reset between two events, or while idle (R136). -/
  | reset (hr : resetLow s = false) : StepTo s (lnsReset (takeReset s))
  /-- A reset that abandons a transaction with the bytes `sent` delivered (R136, R137). -/
  | abandon (bs sent : List Byte) (hr : resetLow s = false) :
      StepTo s (lnsReset (observe (callObs s bs .abandoned sent) (deliver sent (takeReset s))))
  /-- An idle block with nothing presented (R135). -/
  | stay (hr : resetLow s = true) (hp : s.phase = .idle) : StepTo s (takeReset s)
  /-- An illegal word is refused (R117). -/
  | refuse (w : ReqWord) (rest : List ReqWord) (hr : resetLow s = true) (hp : s.phase = .idle)
      (hq : s.requests = w :: rest) : StepTo s (raiseError .illegalRequest (latchRequest w rest (takeReset s)))
  /-- A legal word is accepted (R25). -/
  | accept (w : ReqWord) (rest : List ReqWord) (i : Instr) (hr : resetLow s = true) (hp : s.phase = .idle)
      (hq : s.requests = w :: rest) (hd : decode w = .op i) :
      StepTo s (acceptRequest (operationOf s.cfg i).onAccept (latchRequest w rest (takeReset s)))
  /-- The operation completes (R25, R29). -/
  | complete (i : Instr) (hr : resetLow s = true) (hp : s.phase = .busy) (hd : decode s.req = .op i)
      (he : s.eidx.toNat = (eventsOf s.cfg i).length) : StepTo s (respond .ok (takeReset s))
  /-- The event at `EIDX` completes (R25). -/
  | event (i : Instr) (e : Event) (hr : resetLow s = true) (hp : s.phase = .busy) (hd : decode s.req = .op i)
      (he : (eventsOf s.cfg i)[s.eidx.toNat]? = some e) :
      StepTo s (completeEvent ((operationOf s.cfg i).markAt s.eidx.toNat) e (takeReset s))
  /-- The transport fails with the bytes `sent` delivered (R115, R118). -/
  | fail (bs sent : List Byte) (hr : resetLow s = true) (hp : s.phase = .busy) :
      StepTo s (raiseError .transportFailure
        (observe (callObs s bs .fail sent) (deliver sent (takeAnswer (takeReset s)))))

/-- The reset line is asserted where its sample says how much is delivered (R136). -/
theorem resetLow_eq_false_iff {s : State} : resetLow s = false ↔ ∃ cut, s.resets.head? = some (some cut) := by
  rw [← Bool.not_eq_true, resetLow_iff]
  simp

/-- A step answers none but these next states. -/
theorem stepTo_of_step {s t : State} (h : step s = .next t) : StepTo s t := by
  obtain ⟨-, ⟨cut, hc, rfl⟩ | ⟨hr, ⟨hp, -, rfl⟩ | ⟨w, rest, hp, hq, ⟨e, -, rfl⟩ | ⟨i, hd, rfl⟩⟩ | ⟨i, hp, hd, ho⟩⟩⟩ :=
    step_cases h
  · have hr := resetLow_eq_false_iff.mpr ⟨cut, hc⟩
    unfold resetStep
    obtain ha | ⟨bs, k, -, -, ha⟩ := abandonEvent_cases cut (currentEvent (takeReset s)) (takeReset s) <;> rw [ha]
    · exact .reset hr
    · exact .abandon bs (bs.take (k + 1)) hr
  · exact .stay hr hp
  · exact .refuse w rest hr hp hq
  · exact .accept w rest i hr hp hq hd
  · obtain ⟨hp', rfl⟩ | ⟨-, he, rfl⟩ | ⟨us, -, he, rfl⟩ | ⟨bs, -, he, ⟨-, rfl⟩ | ⟨j, -, rfl⟩⟩ := runOperation_cases ho
    · exact absurd (hp.symm.trans hp') (by decide)
    · exact .complete i hr hp hd he
    · exact .event i (.wait us) hr hp hd he
    · rw [okXfer_eq_completeEvent]
      exact .event i (.xfer bs) hr hp hd he
    · exact .fail bs (bs.take j) hr hp

/-! ### The configuration, `REQ` and `EIDX` -/

theorem StepTo.cfg {s t : State} (h : StepTo s t) : t.cfg = s.cfg := by cases h <;> simp

/-- Settles O48: no next state of a step has another configuration. -/
theorem noStepWritesTheConfiguration : Obligations.NoStepWritesTheConfiguration := by
  unfold Obligations.NoStepWritesTheConfiguration
  exact fun s t h => (stepTo_of_step h).cfg

/-- A BUSY block leaves the presented words where they are (R26). -/
theorem StepTo.requests_of_busy {s t : State} (h : StepTo s t) (hp : s.phase = .busy) : t.requests = s.requests := by
  cases h with
  | refuse w rest hr hi hq => simp [hi] at hp
  | accept w rest i hr hi hq hd => simp [hi] at hp
  | _ => simp

/-- Settles O49: only acceptance, refusal and reset write `REQ`. -/
theorem requestWordHoldsStill : Obligations.RequestWordHoldsStill := by
  unfold Obligations.RequestWordHoldsStill
  intro s t h
  cases stepTo_of_step h with
  | reset hr => exact .inr (.inr ⟨hr, rfl⟩)
  | abandon bs sent hr => exact .inr (.inr ⟨hr, rfl⟩)
  | refuse w rest hr hp hq => exact .inr (.inl ⟨hr, hp, hq⟩)
  | accept w rest i hr hp hq hd => exact .inr (.inl ⟨hr, hp, hq⟩)
  | _ => exact .inl (by simp)

/-- An event that completes lies before the end of the list, so `EIDX` goes up without a wrap (R22). -/
theorem completeEvent_eidx_toNat {s : State} {i : Instr} {e : Event}
    (he : (eventsOf s.cfg i)[s.eidx.toNat]? = some e) (m : Option Ctrl) :
    (completeEvent m e (takeReset s)).eidx.toNat = s.eidx.toNat + 1 :=
  eidx_succ_toNat (List.getElem?_eq_some_iff.mp he).1

/-- Settles O50: a step that ends BUSY accepted a request or completed an event. -/
theorem eventIndexCountsUpByOne : Obligations.EventIndexCountsUpByOne := by
  unfold Obligations.EventIndexCountsUpByOne
  intro s t _ h ht
  cases stepTo_of_step h with
  | stay hr hp => simp [hp] at ht
  | accept w rest i hr hp hq hd => simp [hp]
  | event i e hr hp hd he => exact ⟨fun hi => by simp [hi] at hp, fun _ => completeEvent_eidx_toNat he _⟩
  | _ => simp at ht

/-! ### Responses -/

@[simp] theorem responsesSeen_append (a b : List Obs) : responsesSeen (a ++ b) = responsesSeen a ++ responsesSeen b :=
  List.filterMap_append

section
variable (l : List Obs)

@[simp] theorem responsesSeen_nil : responsesSeen [] = [] := rfl

@[simp] theorem responsesSeen_response (r : Status) :
    responsesSeen (.response r :: l) = r :: responsesSeen l := rfl

@[simp] theorem responsesSeen_request (w : ReqWord) : responsesSeen (.request w :: l) = responsesSeen l := rfl

@[simp] theorem responsesSeen_reset : responsesSeen (.reset :: l) = responsesSeen l := rfl

@[simp] theorem responsesSeen_call (s : State) (bs d : List Byte) (r : CallResult) :
    responsesSeen (callObs s bs r d :: l) = responsesSeen l := rfl

@[simp] theorem responsesSeen_done (a : Addr7) (e : Event) : responsesSeen (doneObs a e :: l) = responsesSeen l := by
  cases e <;> rfl

end

/-- Settles O51: completion, failure and refusal respond; no other next state does. -/
theorem responseIsTheFinalStatus : Obligations.ResponseIsTheFinalStatus := by
  unfold Obligations.ResponseIsTheFinalStatus
  intro s t h
  cases stepTo_of_step h with
  | refuse w rest hr hp hq => exact .inr ⟨by simp, by simp [errorStatus], rfl, hr⟩
  | complete i hr hp hd he => exact .inr ⟨by simp, by simp, rfl, hr⟩
  | fail bs sent hr hp => exact .inr ⟨by simp, by simp [errorStatus], rfl, hr⟩
  | _ => exact .inl (by simp)

end Sys2Proof.Machine
end

section
/-!
PROOFS. The invariant: each of its five parts is kept by every next state of a step. Settles O1, O2, O3 and O55.
-/

namespace Sys2Proof.Machine

/-! ### The registers and the trace -/

/-- R21, R23: only acceptance and a completed event end BUSY, with `EIDX` 0 or one more. -/
theorem StepTo.keeps_regsInv {s t : State} (h : StepTo s t) (hs : regsInv s) : regsInv t := by
  obtain ⟨hw, hb⟩ := hs
  refine ⟨h.cfg ▸ hw, fun ht => ?_⟩
  cases h with
  | stay hr hp => simp [hp] at ht
  | accept w rest i hr hp hq hd => exact ⟨rfl, i, hd, Nat.zero_le _⟩
  | event i e hr hp hd he =>
    refine ⟨(hb hp).1, i, hd, ?_⟩
    rw [completeEvent_eidx_toNat he]
    exact (List.getElem?_eq_some_iff.mp he).1
  | _ => simp at ht

/-- R123: acceptance starts the trace of the operation, and a completed event adds itself. -/
theorem StepTo.keeps_traceInv {s t : State} (h : StepTo s t) (hs : traceInv s) : traceInv t := by
  intro ht i hi
  cases h with
  | stay hr hp => simp [hp] at ht
  | accept w rest j hr hp hq hd => exact ⟨s.log, rfl⟩
  | event j e hr hp hd he =>
    obtain rfl : j = i := Decoded.op.inj (hd.symm.trans hi)
    obtain ⟨before, hl⟩ := hs hp j hd
    refine ⟨before, ?_⟩
    rw [completeEvent_eidx_toNat he, List.take_add_one]
    simp [hl, he]
  | _ => simp at ht

/-- While BUSY at the end of the event list, the run has delivered all bytes of the operation, and last among them a frame
with the enable line low (R83, R123). -/
theorem enLine_port_of_complete {s : State} {i : Instr} (hw : s.cfg.wf = true) (ht : traceInv s) (hport : portInv s)
    (hp : s.phase = .busy) (hd : decode s.req = .op i) (he : s.eidx.toNat = (eventsOf s.cfg i).length) :
    enLine s.cfg s.port = false := by
  obtain ⟨before, hl⟩ := ht hp i hd
  obtain ⟨n, rs, hlast⟩ := bytesOf_eventsOf_last s.cfg i
  have hb : (deliveredSeen s.log).getLast? = some (frame s.cfg n rs false) := by
    rw [hl, he, List.take_length, deliveredSeen_append, deliveredSeen_request, deliveredSeen_doneObs,
      List.getLast?_append, hlast]
    rfl
  rw [hport _ hb, enLine_frame hw]

/-! ### The port -/

/-- The port follows the bytes that the log gains (R31, R37). -/
theorem portInv_append {s t : State} {new : List Obs} (hl : t.log = s.log ++ new)
    (hport : t.port = portAfter (deliveredSeen new) s.port) (hs : portInv s) : portInv t := by
  intro b hb
  rw [hl, deliveredSeen_append, List.getLast?_append] at hb
  cases hn : (deliveredSeen new).getLast? with
  | none =>
    rw [hport, portAfter, hn]
    exact hs b (by simpa [hn] using hb)
  | some c =>
    rw [hport, portAfter_of_getLast? hn]
    simpa [hn] using hb

/-- Every next state accounts for its port by the bytes that its new part of the log delivers. -/
theorem StepTo.log_port {s t : State} (h : StepTo s t) :
    ∃ new, t.log = s.log ++ new ∧ t.port = portAfter (deliveredSeen new) s.port := by
  cases h with
  | reset hr => exact ⟨[.reset], rfl, rfl⟩
  | abandon bs sent hr => exact ⟨[callObs s bs .abandoned sent, .reset], by simp, by simp⟩
  | stay hr hp => exact ⟨[], by simp, rfl⟩
  | refuse w rest hr hp hq => exact ⟨[.request w, .response .failIllegal], by simp [errorStatus], rfl⟩
  | accept w rest i hr hp hq hd => exact ⟨[.request w], rfl, rfl⟩
  | complete i hr hp hd he => exact ⟨[.response .ok], rfl, rfl⟩
  | event i e hr hp hd he => exact ⟨[doneObs s.cfg.addr7 e], rfl, by simp⟩
  | fail bs sent hr hp =>
    exact ⟨[callObs s bs .fail sent, .response .failTransport], by simp [errorStatus], by simp⟩

theorem StepTo.keeps_portInv {s t : State} (h : StepTo s t) (hs : portInv s) : portInv t := by
  obtain ⟨new, hl, hport⟩ := h.log_port
  exact portInv_append hl hport hs

/-- R83: `STATUS` is `OK` only where it was before in an idle block, or at completion. -/
theorem StepTo.keeps_enableInv {s t : State} (h : StepTo s t) (hregs : regsInv s) (ht : traceInv s) (hport : portInv s)
    (hs : enableInv s) : enableInv t := by
  obtain ⟨hw, hb⟩ := hregs
  intro hok
  cases h with
  | stay hr hp => exact hs hok
  | complete i hr hp hd he => exact enLine_port_of_complete (s := s) hw ht hport hp hd he
  | event i e hr hp hd he =>
    have hn : s.status = .none := (hb hp).1
    simp [hn] at hok
  | _ => simp [errorStatus] at hok

/-! ### The ghost `CTRL` -/

/-- Cleared-Ready is the mark of INIT's last event and of no other (R108). -/
theorem markAt_init_eq_clearedReady {c : Config} {k : Nat} :
    (operationOf c .init).markAt k = some .clearedReady ↔ k + 1 = (eventsOf c .init).length := by
  have hlen : (eventsOf c .init).length = 8 * cmdEventCount c.group + 4 := eventsInit_length c
  obtain ⟨h5, h6, h9, h11⟩ := initLastEvent_values c
  show (initOperation c).markAt k = _ ↔ _
  rw [markAt_init, h5, h6, h9, h11, hlen]
  split_ifs <;> simp <;> omega

theorem getD_onAccept_of_ne_init {i : Instr} (h : i ≠ .init) (c : Config) (x : Ctrl) :
    (operationOf c i).onAccept.getD x = x := by
  rw [onAccept_operationOf, if_neg h]

theorem getD_markAt_of_ne_init {i : Instr} (h : i ≠ .init) (c : Config) (k : Nat) (x : Ctrl) :
    ((operationOf c i).markAt k).getD x = x := by
  rw [markAt_of_ne_init h, Option.getD_none]

/-- An event makes `CTRL` Cleared-Ready only if it was so before or the event is INIT's last. -/
theorem getD_markAt_eq_clearedReady {c : Config} {i : Instr} {k : Nat} {x : Ctrl}
    (h : ((operationOf c i).markAt k).getD x = .clearedReady) (hx : x ≠ .clearedReady) :
    i = .init ∧ k + 1 = (eventsOf c .init).length := by
  cases hm : (operationOf c i).markAt k with
  | none => exact absurd (by simpa [hm] using h) hx
  | some y =>
    obtain rfl : y = .clearedReady := by simpa [hm] using h
    by_cases hi : i = .init
    · subst hi
      exact ⟨rfl, markAt_init_eq_clearedReady.mp hm⟩
    · rw [markAt_of_ne_init hi] at hm
      cases hm

theorem resetCtrl_eq_clearedReady {s : State} (h : resetCtrl s = .clearedReady) : s.ctrl = .clearedReady := by
  unfold resetCtrl at h
  split at h
  · exact h
  · cases h

/-- A completed event tells the host nothing. -/
@[simp] theorem HostView.see_doneObs (v : HostView) (a : Addr7) (e : Event) : v.see (doneObs a e) = v :=
  hostView_doneObs a [e] v

/-- While BUSY the host has the request in `REQ` pending (R123, R147). -/
theorem pending_of_busy {s : State} {i : Instr} (ht : traceInv s) (hp : s.phase = .busy) (hd : decode s.req = .op i) :
    (hostView s.log).pending = some s.req := by
  obtain ⟨before, hl⟩ := ht hp i hd
  rw [hl, hostView_append, List.foldl_cons, hostView_doneObs]
  rfl

/-- INIT has events, so a block that has just accepted it is not at its end. -/
theorem eventsOf_init_length_pos (c : Config) : 0 < (eventsOf c .init).length := by
  have hlen : (eventsOf c .init).length = 8 * cmdEventCount c.group + 4 := eventsInit_length c
  omega

/-- R108: a block past INIT's last event has just completed it. -/
theorem StepTo.ready_of_initEnd {s t : State} (h : StepTo s t) (ht : t.phase = .busy) (hi : decode t.req = .op .init)
    (he : t.eidx.toNat = (eventsOf t.cfg .init).length) : t.ctrl = .clearedReady := by
  cases h with
  | stay hr hp => simp [hp] at ht
  | accept w rest i hr hp hq hd => exact absurd he (eventsOf_init_length_pos s.cfg).ne
  | event i e hr hp hd hg =>
    obtain rfl : i = .init := Decoded.op.inj (hd.symm.trans hi)
    have hk : s.eidx.toNat + 1 = (eventsOf s.cfg .init).length := (completeEvent_eidx_toNat hg _).symm.trans he
    rw [completeEvent_ctrl, markAt_init_eq_clearedReady.mpr hk]
    rfl
  | _ => simp at ht

/-- R126, R137, R141: what the host saw keeps saying that INIT stands only while `CTRL` stays Cleared-Ready or another INIT
runs. -/
theorem StepTo.ready_of_initStands {s t : State} (h : StepTo s t) (htrace : traceInv s) (hs : readyInv s)
    (hst : initStands t.log = true) : t.ctrl = .clearedReady ∨ (t.phase = .busy ∧ decode t.req = .op .init) := by
  obtain ⟨hend, hstands⟩ := hs
  have hidle : s.phase = .idle → initStands s.log = true → s.ctrl = .clearedReady := fun hp h0 =>
    (hstands h0).resolve_right fun ⟨hb, _⟩ => by simp [hp] at hb
  cases h with
  | reset hr => simp [initStands, hostView_append, HostView.see] at hst
  | abandon bs sent hr => simp [initStands, hostView_append, HostView.see] at hst
  | fail bs sent hr hp => simp [initStands, hostView_append, HostView.see, errorStatus] at hst
  | stay hr hp => exact .inl (hidle hp hst)
  | refuse w rest hr hp hq =>
    exact .inl (hidle hp (by simpa [initStands, hostView_append, HostView.see, errorStatus] using hst))
  | accept w rest i hr hp hq hd =>
    by_cases hi : i = .init
    · exact .inr ⟨rfl, hi ▸ hd⟩
    · refine .inl ?_
      rw [acceptRequest_ctrl, getD_onAccept_of_ne_init hi]
      exact hidle hp (by simpa [initStands, hostView_append, HostView.see] using hst)
  | complete i hr hp hd he =>
    refine .inl ?_
    have hready : i = .init → s.ctrl = .clearedReady := by
      rintro rfl
      exact hend hp hd he
    have hor : initStands s.log = true ∨ i = .init := by
      simpa [initStands, hostView_append, HostView.see, pending_of_busy htrace hp hd, hd] using hst
    obtain h0 | hi := hor
    · exact (hstands h0).elim id fun ⟨_, hinit⟩ => hready (Decoded.op.inj (hd.symm.trans hinit))
    · exact hready hi
  | event i e hr hp hd he =>
    by_cases hi : i = .init
    · exact .inr ⟨hp, hi ▸ hd⟩
    · refine .inl ?_
      rw [completeEvent_ctrl, getD_markAt_of_ne_init hi]
      have h0 : initStands s.log = true := by simpa [initStands, hostView_append] using hst
      exact (hstands h0).resolve_right fun ⟨_, hinit⟩ => hi (Decoded.op.inj (hd.symm.trans hinit))

/-! ### The statements -/

/-- Settles O3: the five parts, each kept by every next state. -/
theorem stepKeepsInvariant : Obligations.StepKeepsInvariant := by
  unfold Obligations.StepKeepsInvariant
  intro s t ⟨hregs, htrace, hport, henable, hready⟩ h
  have hst := stepTo_of_step h
  exact ⟨hst.keeps_regsInv hregs, hst.keeps_traceInv htrace, hst.keeps_portInv hport,
    hst.keeps_enableInv hregs htrace hport henable,
    hst.ready_of_initEnd, hst.ready_of_initStands htrace hready⟩

/-- The reset state's configuration is R5's, whatever `P_COLS` is. -/
theorem reset_wf : State.reset.cfg.wf = true := rfl

/-- Settles O1: each register by its value in `State.reset`. -/
theorem resetHoldsSpecValues : Obligations.ResetHoldsSpecValues :=
  ⟨rfl, rfl, rfl, rfl, rfl, rfl, rfl, reset_wf⟩

/-- An idle block that has shown nothing and has no `OK` meets the invariant. -/
theorem inv_of_idle_of_log_nil {s : State} (hw : s.cfg.wf = true) (hp : s.phase = .idle) (hl : s.log = [])
    (hok : s.status ≠ .ok) : s.Inv := by
  have hb : s.phase ≠ .busy := by simp [hp]
  refine ⟨⟨hw, fun h => absurd h hb⟩, fun h => absurd h hb, fun b h => ?_, fun h => absurd h hok,
    fun h => absurd h hb, fun h => ?_⟩
  · simp [hl] at h
  · simp [hl, initStands, hostView] at h

/-- Settles O2: at reset the block is idle and nothing has been shown. -/
theorem resetMeetsInvariant : Obligations.ResetMeetsInvariant :=
  inv_of_idle_of_log_nil reset_wf rfl rfl (by decide)

/-- Only INIT's last event takes `CTRL` to Cleared-Ready (R32, R108). -/
theorem StepTo.initEnd_of_ready {s t : State} (h : StepTo s t) (ht : t.ctrl = .clearedReady)
    (hs : s.ctrl ≠ .clearedReady) :
    s.phase = .busy ∧ decode s.req = .op .init ∧ s.eidx.toNat + 1 = (eventsOf s.cfg .init).length := by
  cases h with
  | reset hr => exact absurd (resetCtrl_eq_clearedReady ht) hs
  | abandon bs sent hr => exact absurd (by simpa using resetCtrl_eq_clearedReady ht) hs
  | accept w rest i hr hp hq hd =>
    rw [acceptRequest_ctrl, onAccept_operationOf] at ht
    split at ht
    · cases ht
    · exact absurd ht hs
  | event i e hr hp hd he =>
    obtain ⟨rfl, hk⟩ := getD_markAt_eq_clearedReady ht hs
    exact ⟨hp, hd, hk⟩
  | fail bs sent hr hp => simp [errorCtrl] at ht
  | _ => exact absurd ht hs

/-- Settles O55: by the next states of a step, and by the invariant's part on `CTRL`. -/
theorem onlyInitMakesTheDisplayReady : Obligations.OnlyInitMakesTheDisplayReady := by
  unfold Obligations.OnlyInitMakesTheDisplayReady
  refine ⟨fun s t h => (stepTo_of_step h).initEnd_of_ready, fun a s hinv hp hdisp => ?_⟩
  obtain ⟨-, -, -, -, -, hstands⟩ := hinv
  obtain ⟨-, -, hst, -⟩ := hdisp
  exact (hstands hst).resolve_right fun ⟨hb, _⟩ => by simp [hp] at hb

end Sys2Proof.Machine
end

section
/-!
PROOFS. What a step never reads: the port, the ghost `CTRL` and the latched nibbles; and, while BUSY, the presented words.
Each operation is followed in a state and in the same state with those fields replaced. Settles O52 and O53.
-/

namespace Sys2Proof.Machine

/-! ### The presented words, while BUSY -/

/-- The state with other words presented. -/
def withWords (words : List ReqWord) (s : State) : State := { s with requests := words }

/-- An outcome with its next state replaced by `f`. -/
def mapNext (f : State → State) : Host.Outcome State Fault Refusal → Host.Outcome State Fault Refusal
  | .next s => .next (f s)
  | .fault r => .fault r
  | .refused r => .refused r

section
variable (words : List ReqWord) (s : State)

theorem deliver_withWords (bs : List Byte) : deliver bs (withWords words s) = withWords words (deliver bs s) := by
  induction bs generalizing s with
  | nil => rfl
  | cons b bs ih => exact ih (deliverByte b s)

theorem performXfer_withWords (m : Option Ctrl) (bs : List Byte) :
    performXfer m bs (withWords words s) = mapNext (withWords words) (performXfer m bs s) := by
  have hd : ∀ cs, deliver cs (takeAnswer (withWords words s)) = withWords words (deliver cs (takeAnswer s)) :=
    deliver_withWords words (takeAnswer s)
  obtain ⟨ha, hx⟩ | ⟨j, ha, hx⟩ | ⟨ha, hx⟩ := performXfer_cases m bs s
  · rw [hx, performXfer_ok (s := withWords words s) ha, hd]
    rfl
  · rw [hx, performXfer_fail (s := withWords words s) ha, hd]
    rfl
  · rw [hx, performXfer_never (s := withWords words s) ha]
    rfl

theorem runOperation_withWords (op : Operation) :
    runOperation op (withWords words s) = mapNext (withWords words) (runOperation op s) := by
  unfold runOperation
  rw [show (withWords words s).phase = s.phase from rfl, show (withWords words s).eidx = s.eidx from rfl]
  split
  · rfl
  · split
    · rfl
    · split
      · exact performXfer_withWords words s _ _
      · rfl
      · rfl

theorem resetStep_withWords (cut : Nat) :
    resetStep cut (withWords words s) = withWords words (resetStep cut s) := by
  unfold resetStep
  rw [show currentEvent (withWords words s) = currentEvent s from rfl]
  unfold abandonEvent
  split
  · rw [deliver_withWords]
    rfl
  · rfl

/-- The words presented to a BUSY block pass through its step unread (R26). -/
theorem step_withWords (hp : s.phase = .busy) : step (withWords words s) = mapNext (withWords words) (step s) := by
  cases hw : s.cfg.wf with
  | false =>
    rw [step_illFormed hw, step_illFormed (s := withWords words s) hw]
    rfl
  | true =>
    cases hr : resetLow s with
    | true =>
      rw [step_sequencer hw hr, step_sequencer (s := withWords words s) hw hr]
      cases hd : decode s.req with
      | illegal e => simp [sequencerStep, withWords, mapNext, hp, hd]
      | op i =>
        rw [sequencerStep_busy (s := takeReset s) hp hd, sequencerStep_busy (s := takeReset (withWords words s)) hp hd,
          exec_eq, exec_eq]
        exact runOperation_withWords words (takeReset s) _
    | false =>
      obtain ⟨cut, hc⟩ := resetLow_eq_false_iff.mp hr
      rw [step_reset hw hc, step_reset (s := withWords words s) hw hc]
      exact congrArg Host.Outcome.next (resetStep_withWords words (takeReset s) cut)

end

/-- Settles O52: the step commutes with the change of the presented words. -/
theorem presentedWordWaitsWhileBusy : Obligations.PresentedWordWaitsWhileBusy := by
  unfold Obligations.PresentedWordWaitsWhileBusy
  intro s words hp
  have hstep : step { s with requests := words } = mapNext (withWords words) (step s) := step_withWords words s hp
  refine ⟨fun t ht => ⟨(stepTo_of_step ht).requests_of_busy hp, ?_⟩, fun f hf => ?_⟩
  · rw [hstep, ht]
    rfl
  · rw [hstep, hf]
    rfl

/-! ### The port, the ghost `CTRL` and the latched nibbles -/

/-- What the block sees after a transaction does not depend on the delivered bytes or the mark of `CTRL`. -/
theorem blockView_advance_deliver (m : Option Ctrl) (o : Obs) (bs : List Byte) (s : State) :
    blockView (advance m (observe o (deliver bs s))) = blockView (advance none (observe o s)) := by
  rw [deliver_eq_latched]
  rfl

theorem blockView_raiseError_deliver (e : BlockError) (o : Obs) (bs : List Byte) (s : State) :
    blockView (raiseError e (observe o (deliver bs s))) = blockView (raiseError e (observe o s)) := by
  rw [deliver_eq_latched]
  rfl

section
variable (s : State)

theorem performXfer_blockView (m : Option Ctrl) (bs : List Byte) :
    outcomeView (performXfer m bs (blockView s)) = outcomeView (performXfer m bs s) := by
  obtain ⟨ha, hx⟩ | ⟨j, ha, hx⟩ | ⟨ha, hx⟩ := performXfer_cases m bs s
  · rw [hx, performXfer_ok (s := blockView s) ha]
    simp only [outcomeView, blockView_advance_deliver]
    rfl
  · rw [hx, performXfer_fail (s := blockView s) ha]
    simp only [outcomeView, blockView_raiseError_deliver]
    rfl
  · rw [hx, performXfer_never (s := blockView s) ha]

theorem runOperation_blockView (op : Operation) :
    outcomeView (runOperation op (blockView s)) = outcomeView (runOperation op s) := by
  unfold runOperation
  rw [show (blockView s).phase = s.phase from rfl, show (blockView s).eidx = s.eidx from rfl]
  split
  · rfl
  · split
    · rfl
    · split
      · exact performXfer_blockView s _ _
      · rfl
      · rfl

theorem sequencerStep_blockView : outcomeView (sequencerStep (blockView s)) = outcomeView (sequencerStep s) := by
  unfold sequencerStep
  rw [show (blockView s).phase = s.phase from rfl, show (blockView s).requests = s.requests from rfl,
    show (blockView s).req = s.req from rfl]
  split
  · split
    · rfl
    · unfold acceptStep
      split
      · rw [exec_eq, exec_eq]
        exact runOperation_blockView (latchRequest _ _ s) _
      · rfl
  · split
    · rw [exec_eq, exec_eq]
      exact runOperation_blockView s _
    · rfl

theorem blockView_resetStep (cut : Nat) : blockView (resetStep cut (blockView s)) = blockView (resetStep cut s) := by
  unfold resetStep
  rw [show currentEvent (blockView s) = currentEvent s from rfl]
  unfold abandonEvent
  split
  · rw [deliver_eq_latched _ s, deliver_eq_latched _ (blockView s)]
    rfl
  · rfl

/-- The step of a state is, to the block, the step of what the block sees of it (R31, R32). -/
theorem step_blockView : outcomeView (step (blockView s)) = outcomeView (step s) := by
  cases hw : s.cfg.wf with
  | false => rw [step_illFormed hw, step_illFormed (s := blockView s) hw]
  | true =>
    cases hr : resetLow s with
    | true =>
      rw [step_sequencer hw hr, step_sequencer (s := blockView s) hw hr]
      exact sequencerStep_blockView (takeReset s)
    | false =>
      obtain ⟨cut, hc⟩ := resetLow_eq_false_iff.mp hr
      rw [step_reset hw hc, step_reset (s := blockView s) hw hc]
      exact congrArg Host.Outcome.next (blockView_resetStep (takeReset s) cut)

end

/-- Settles O53: both states look the same to the block. -/
theorem blockNeverReadsPortOrCtrl : Obligations.BlockNeverReadsPortOrCtrl := by
  unfold Obligations.BlockNeverReadsPortOrCtrl
  intro s p c l
  calc outcomeView (step { s with port := p, ctrl := c, latched := l })
      = outcomeView (step (blockView { s with port := p, ctrl := c, latched := l })) := (step_blockView _).symm
    _ = outcomeView (step s) := step_blockView s

end Sys2Proof.Machine
end

section
/-!
PROOFS. A whole request: the state after its acceptance and `k` of its events, and the run to its response. Settles O46.
-/

namespace Sys2Proof

/-- A request decodes back from its word (R56, R57). -/
theorem decode_encode (i : Instr) : decode (encode i) = .op i := by
  cases i with
  | cmd b =>
    have ho : opcField (0x1#4 ++ 0x0#4 ++ b) = 0x1#4 := opcField_append (0x1#4 ++ 0x0#4) b
    have ha : auxField (0x1#4 ++ 0x0#4 ++ b) = 0#4 := auxField_append (0x1#4 ++ 0x0#4) b
    simp only [decode, encode, ho, ha, payField_cmd, if_true]
  | data b =>
    have ho : opcField (0x2#4 ++ 0x0#4 ++ b) = 0x2#4 := opcField_append (0x2#4 ++ 0x0#4) b
    have ha : auxField (0x2#4 ++ 0x0#4 ++ b) = 0#4 := auxField_append (0x2#4 ++ 0x0#4) b
    simp only [decode, encode, ho, ha, payField_data]
    rfl
  | setcur row col =>
    have hb : ∀ r : BitVec 1, (0x3#4 ++ 0x0#3 ++ r).extractLsb' 4 4 = 0x3#4 ∧
        (0x3#4 ++ 0x0#3 ++ r).extractLsb' 1 3 = 0#3 ∧ (0x3#4 ++ 0x0#3 ++ r).extractLsb' 0 1 = r := by decide
    obtain ⟨h3, hz, hrow⟩ := hb row
    have ho := (opcField_append (0x3#4 ++ 0x0#3 ++ row) col).trans h3
    have ha := (auxHighField_append (0x3#4 ++ 0x0#3 ++ row) col).trans hz
    have hr := (rowField_append (0x3#4 ++ 0x0#3 ++ row) col).trans hrow
    simp only [decode, encode, ho, ha, hr, payField_setcur]
    rfl
  | init => decide

end Sys2Proof

namespace Sys2Proof.Machine

/-! ### The steps of a running request -/

section
variable {s : State} {i : Instr} (hw : s.cfg.wf = true) (hr : resetLow s = true)
include hw hr

theorem step_accept {rest : List ReqWord} (hp : s.phase = .idle) (hq : s.requests = encode i :: rest) :
    step s = .next (acceptRequest (operationOf s.cfg i).onAccept (latchRequest (encode i) rest (takeReset s))) := by
  rw [step_sequencer hw hr, sequencerStep_accept (s := takeReset s) hp hq (decode_encode i), exec_eq]
  exact runOperation_idle (s := latchRequest (encode i) rest (takeReset s)) hp _

theorem step_completes {e : Event} (hp : s.phase = .busy) (hd : decode s.req = .op i)
    (he : (eventsOf s.cfg i)[s.eidx.toNat]? = some e) (ha : isXfer e = true → nextAnswer s = .ok) :
    step s = .next (completeEvent ((operationOf s.cfg i).markAt s.eidx.toNat) e (takeReset s)) := by
  rw [step_sequencer hw hr, sequencerStep_busy (s := takeReset s) hp hd, exec_eq]
  exact runOperation_completes (s := takeReset s) hp he ha

theorem step_responds (hp : s.phase = .busy) (hd : decode s.req = .op i)
    (he : s.eidx.toNat = (eventsOf s.cfg i).length) : step s = .next (respond .ok (takeReset s)) := by
  rw [step_sequencer hw hr, sequencerStep_busy (s := takeReset s) hp hd, exec_eq]
  exact runOperation_complete (s := takeReset s) hp he

end

/-! ### The state after the first events -/

/-- `CTRL` after acceptance and the first `k` events of an operation (R108). -/
def ctrlAfter (op : Operation) (c : Ctrl) : Nat → Ctrl
  | 0 => op.onAccept.getD c
  | k + 1 => (op.markAt k).getD (ctrlAfter op c k)

theorem ctrlAfter_of_ne_init {i : Instr} (hi : i ≠ .init) (c : Config) (x : Ctrl) (k : Nat) :
    ctrlAfter (operationOf c i) x k = x := by
  induction k with
  | zero => exact getD_onAccept_of_ne_init hi c x
  | succ k ih => rw [ctrlAfter, ih, getD_markAt_of_ne_init hi]

/-- After all its events INIT has made `CTRL` Cleared-Ready, and every other request has left it (R108). -/
theorem ctrlAfter_length (c : Config) (i : Instr) (x : Ctrl) :
    ctrlAfter (operationOf c i) x (eventsOf c i).length = if i = .init then .clearedReady else x := by
  split
  next hi =>
    subst hi
    obtain ⟨k, hk⟩ := Nat.exists_eq_add_one.mpr (eventsOf_init_length_pos c)
    rw [hk, ctrlAfter, markAt_init_eq_clearedReady.mpr hk.symm]
    rfl
  next hi => exact ctrlAfter_of_ne_init hi c x _

/-- The state after an idle block took the word of `i` and `k` of its events completed, with the answers `later` left. -/
def afterEvents (i : Instr) (rest : List ReqWord) (later : List TransportAnswer) (k : Nat) (s : State) : State :=
  let done := (eventsOf s.cfg i).take k
  { s with
    phase := .busy, req := encode i, requests := rest, eidx := BitVec.ofNat 6 k, status := .none
    port := portAfter (bytesOf done) s.port, ctrl := ctrlAfter (operationOf s.cfg i) s.ctrl k
    latched := (deliver (bytesOf done) s).latched
    log := s.log ++ .request (encode i) :: done.map (doneObs s.cfg.addr7)
    resets := s.resets.drop (k + 1), answers := later, calls := s.calls + xferCount done }

theorem afterEvents_eidx_toNat {i : Instr} {rest : List ReqWord} {later : List TransportAnswer} {k : Nat} {s : State}
    (hk : k ≤ (eventsOf s.cfg i).length) : (afterEvents i rest later k s).eidx.toNat = k := by
  have := eventsOf_length_le s.cfg i
  exact Nat.mod_eq_of_lt (by omega)

theorem xferCount_append (a b : List Event) : xferCount (a ++ b) = xferCount a + xferCount b := List.countP_append

/-- One more event completes: the next of the states `afterEvents` (R25). -/
theorem completeEvent_afterEvents {i : Instr} {e : Event} {k : Nat} {s : State}
    (he : (eventsOf s.cfg i)[k]? = some e) (rest : List ReqWord) (answers : List TransportAnswer) :
    completeEvent ((operationOf s.cfg i).markAt k) e (takeReset (afterEvents i rest answers k s)) =
      afterEvents i rest (answers.drop (xferCount [e])) (k + 1) s := by
  have htake : (eventsOf s.cfg i).take (k + 1) = (eventsOf s.cfg i).take k ++ [e] := by
    rw [List.take_add_one, he]
    rfl
  have hbytes : bytesOf [e] = eventBytes e := List.append_nil _
  have hlatched : (deliver (eventBytes e) (takeReset (afterEvents i rest answers k s))).latched =
      (deliver (bytesOf ((eventsOf s.cfg i).take (k + 1))) s).latched := by
    rw [htake, bytesOf_append, hbytes, deliver_append]
    exact deliver_latched_congr _ (by simp [afterEvents]) (by simp [afterEvents]) rfl
  have hidx : BitVec.ofNat 6 k + 1#6 = BitVec.ofNat 6 (k + 1) := (BitVec.ofNat_add ..).symm
  unfold completeEvent
  rw [hlatched]
  simp [afterEvents, takeReset, htake, hidx, hbytes, portAfter_append, xferCount_append, ctrlAfter, List.tail_drop,
    Nat.add_assoc]

/-- Acceptance: the first of the states `afterEvents` (R25). -/
theorem acceptRequest_eq_afterEvents (i : Instr) (rest : List ReqWord) (s : State) :
    acceptRequest (operationOf s.cfg i).onAccept (latchRequest (encode i) rest (takeReset s)) =
      afterEvents i rest s.answers 0 s := by
  simp [afterEvents, acceptRequest, latchRequest, observe, takeReset, ctrlAfter, xferCount]

theorem nextAnswer_of_head? {s : State} {a : TransportAnswer} (h : s.answers.head? = some a) : nextAnswer s = a := by
  obtain ⟨l, hl⟩ := List.head?_eq_some_iff.mp h
  simp [nextAnswer, hl]

/-- In a state `afterEvents` with an event left, that event completes (R25). -/
theorem step_afterEvents {i : Instr} {rest : List ReqWord} {e : Event} {k : Nat} {s : State}
    {answers : List TransportAnswer} (hw : s.cfg.wf = true) (hn : NoReset (k + 2) s)
    (he : (eventsOf s.cfg i)[k]? = some e) (ha : isXfer e = true → answers.head? = some .ok) :
    step (afterEvents i rest answers k s) =
      .next (afterEvents i rest (answers.drop (xferCount [e])) (k + 1) s) := by
  have hidx : (afterEvents i rest answers k s).eidx.toNat = k :=
    afterEvents_eidx_toNat (List.getElem?_eq_some_iff.mp he).1.le
  have hr : resetLow (afterEvents i rest answers k s) = true := resetLow_of_noReset hn (Nat.lt_succ_self _) rfl
  rw [step_completes (s := afterEvents i rest answers k s) (i := i) hw hr rfl (decode_encode i) (by rw [hidx]; exact he)
    fun hx => nextAnswer_of_head? (ha hx), hidx]
  exact congrArg Host.Outcome.next (completeEvent_afterEvents he rest answers)

/-- The run of a request through its acceptance and its first `k` events, where the transport answers `ok` to each of
their transactions (R25). -/
theorem runSteps_afterEvents {i : Instr} {s : State} {rest : List ReqWord} (hw : s.cfg.wf = true)
    (hp : s.phase = .idle) (hq : s.requests = encode i :: rest) {k : Nat} :
    ∀ {later : List TransportAnswer}, k ≤ (eventsOf s.cfg i).length → NoReset (k + 1) s →
      s.answers = List.replicate (xferCount ((eventsOf s.cfg i).take k)) .ok ++ later →
      runSteps (k + 1) s = .next (afterEvents i rest later k s) := by
  induction k with
  | zero =>
    intro later _ hn ha
    obtain rfl : s.answers = later := ha
    have hr : resetLow s = true := resetLow_of_noReset hn Nat.zero_lt_one List.drop_zero.symm
    rw [runSteps_snoc (runSteps_zero s), step_accept hw hr hp hq, acceptRequest_eq_afterEvents]
  | succ k ih =>
    intro later hk hn ha
    obtain ⟨e, he⟩ : ∃ e, (eventsOf s.cfg i)[k]? = some e := ⟨_, List.getElem?_eq_getElem hk⟩
    have hcount : xferCount ((eventsOf s.cfg i).take (k + 1)) =
        xferCount ((eventsOf s.cfg i).take k) + xferCount [e] := by
      rw [List.take_add_one, he, xferCount_append]
      rfl
    rw [hcount, List.replicate_add, List.append_assoc] at ha
    rw [runSteps_snoc (ih (Nat.le_of_succ_le hk) (noReset_mono hn (Nat.le_succ _)) ha)]
    rw [step_afterEvents hw hn he, List.drop_left' List.length_replicate]
    cases e with
    | wait us => exact fun h => by cases h
    | xfer bs => exact fun _ => rfl

/-- Settles O46: the run through all events, and then the response. -/
theorem requestRunsToCompletion : Obligations.RequestRunsToCompletion := by
  unfold Obligations.RequestRunsToCompletion
  intro i s rest later hw hp hn hq ha
  have hall : (eventsOf s.cfg i).take (eventsOf s.cfg i).length = eventsOf s.cfg i := List.take_length
  have hrun : runSteps ((eventsOf s.cfg i).length + 1) s =
      .next (afterEvents i rest later (eventsOf s.cfg i).length s) :=
    runSteps_afterEvents hw hp hq le_rfl (noReset_mono hn (Nat.le_succ _)) (by rw [hall]; exact ha)
  have hlatched : (deliver (bytesOf (eventsOf s.cfg i)) s).latched = s.latched ++ operationLatches s.cfg i := by
    rw [bytesOf_eventsOf, deliver_strobes_latched _ hw]
  rw [runSteps_snoc hrun, step_responds (s := afterEvents i rest later (eventsOf s.cfg i).length s) (i := i) hw
    (resetLow_of_noReset hn (Nat.lt_succ_self _) rfl) rfl (decode_encode i) (afterEvents_eidx_toNat le_rfl)]
  simp [afterEvents, respond, observe, takeReset, hp, hlatched, ctrlAfter_length, wf_addr7 hw, List.tail_drop]

end Sys2Proof.Machine
end

section
/-!
PROOFS. The bytes on the bus: how many a transaction carries, whom it addresses, and what each does to the expander's
port and the controller's latch. Settles O26, O54 and O44.
-/

namespace Sys2Proof.Machine

/-! ### How many bytes a transaction carries -/

/-- Every way to cut a byte's four frames makes transactions of 1 to 4 bytes (R45, R63). -/
theorem width_of_mem_groupFrames {g : Grouping} {k : ByteKind} {a b c d : Byte} {bs : List Byte}
    (h : Event.xfer bs ∈ groupFrames g [a, b, c, d] k) : 1 ≤ bs.length ∧ bs.length ≤ 4 := by
  have hpairs : Event.xfer bs ∈ twoPairs [a, b, c, d] → bs.length = 2 := by simp +contextual [twoPairs, or_imp]
  have hwhole : Event.xfer bs ∈ [Event.xfer [a, b, c, d]] → bs.length = 4 := by simp +contextual
  have hsingle : Event.xfer bs ∈ [a, b, c, d].map (fun x => Event.xfer [x]) → bs.length = 1 := by
    simp +contextual [or_imp]
  cases g with
  | source =>
    cases k with
    | command => simp [hpairs h]
    | character => simp [hwhole h]
  | perNibble => simp [hpairs h]
  | perByteOp => simp [hwhole h]
  | perFrame => simp [hsingle h]

theorem width_of_mem_eventsCmd {c : Config} {b : Byte} {bs : List Byte} (h : Event.xfer bs ∈ eventsCmd c b) :
    1 ≤ bs.length ∧ bs.length ≤ 4 := width_of_mem_groupFrames h

/-- A transaction of INIT belongs to one of its commands (R100, R102). -/
theorem width_of_mem_eventsInit {c : Config} {bs : List Byte} (h : Event.xfer bs ∈ eventsInit c) :
    1 ≤ bs.length ∧ bs.length ≤ 4 := by
  obtain ⟨st, -, hst⟩ := List.mem_flatMap.mp h
  cases st with
  | wait us => simp [initStepEvents] at hst
  | command b => exact width_of_mem_eventsCmd hst

/-- Under SOURCE a command makes one transaction of each nibble's strobe pair (R77). -/
theorem eventsCmd_source {c : Config} (h : c.group = .source) (b : Byte) :
    eventsCmd c b = [.xfer (strobe c (hiNibble b) false), .xfer (strobe c (loNibble b) false)] := by
  rw [eventsCmd, h]
  rfl

/-- Under SOURCE a character makes one transaction of its four frames (R77). -/
theorem eventsData_source {c : Config} (h : c.group = .source) (b : Byte) :
    eventsData c b = [.xfer (enc c b true)] := by
  rw [eventsData, h]
  rfl

@[simp] theorem strobe_length (c : Config) (n : Nibble) (rs : Bool) : (strobe c n rs).length = 2 := rfl

/-- Settles O26: the bound by the cut of a byte's frames, the table by the events under SOURCE. -/
theorem transactionWidths : Obligations.TransactionWidths := by
  unfold Obligations.TransactionWidths
  refine ⟨fun c i bs h => ?_, fun c hg => ⟨fun b => ?_, fun r k => ?_, fun b => ?_, ?_⟩⟩
  · cases i with
    | cmd b => exact width_of_mem_eventsCmd h
    | data b => exact width_of_mem_groupFrames h
    | setcur r k => exact width_of_mem_eventsCmd h
    | init => exact width_of_mem_eventsInit h
  · change (eventsCmd c b).map _ = _
    simp [eventsCmd_source hg, eventBytes]
  · change (eventsCmd c (cursorCommand c r k)).map _ = _
    simp [eventsCmd_source hg, eventBytes]
  · change (eventsData c b).map _ = _
    simp [eventsData_source hg, eventBytes]
  · change ((eventsInit c).filter isXfer).map _ = _
    simp only [eventsInit_eq, eventsCmd_source hg]
    rfl

/-! ### Whom a transaction addresses -/

/-- A transport call goes to the expander and delivers a leading part of its bytes (R36, R118); every other entry of the
log is no call. -/
def IsExpanderWrite : Obs → Prop
  | .memWrite a bs _ d => a = 0x27#7 ∧ d <+: bs
  | _ => True

@[simp] theorem isExpanderWrite_delay (us : Nat) : IsExpanderWrite (.delay us) := trivial

@[simp] theorem isExpanderWrite_response (r : Status) : IsExpanderWrite (.response r) := trivial

@[simp] theorem isExpanderWrite_request (w : ReqWord) : IsExpanderWrite (.request w) := trivial

@[simp] theorem isExpanderWrite_reset : IsExpanderWrite .reset := trivial

/-- The block calls the configured address, which is the expander's (R5, R36). -/
theorem isExpanderWrite_callObs {s : State} (hw : s.cfg.wf = true) {bs d : List Byte} (hd : d <+: bs) (r : CallResult) :
    IsExpanderWrite (callObs s bs r d) := ⟨wf_addr7 hw, hd⟩

/-- The log grows at its end, and every new transport call is a write to the expander. -/
def LogsExpanderWrites (s t : State) : Prop := ∃ new, t.log = s.log ++ new ∧ ∀ o ∈ new, IsExpanderWrite o

/-- Whatever the sequencer does while it runs an operation, it calls no one but the expander (R27, R36). -/
theorem runOperation_logsExpanderWrites {op : Operation} {s t : State} (hw : s.cfg.wf = true)
    (h : runOperation op s = .next t) : LogsExpanderWrites s t := by
  obtain ⟨-, rfl⟩ | ⟨-, -, rfl⟩ | ⟨us, -, -, rfl⟩ | ⟨bs, -, -, ⟨-, rfl⟩ | ⟨j, -, rfl⟩⟩ := runOperation_cases h
  · exact ⟨[], by simp⟩
  · exact ⟨[.response .ok], by simp⟩
  · exact ⟨[.delay us], by simp⟩
  · exact ⟨[callObs s bs .ok bs], by simp [isExpanderWrite_callObs hw List.prefix_rfl]⟩
  · exact ⟨[callObs s bs .fail (bs.take j), .response .failTransport],
      by simp [errorStatus, isExpanderWrite_callObs hw (List.take_prefix j bs)]⟩

/-- A reset adds its own entry, after that of the call it abandons, if it abandons one (R136, R137). -/
theorem resetStep_logsExpanderWrites {s : State} (hw : s.cfg.wf = true) (cut : Nat) :
    LogsExpanderWrites s (resetStep cut s) := by
  unfold resetStep
  obtain ha | ⟨bs, k, -, -, ha⟩ := abandonEvent_cases cut (currentEvent s) s <;> rw [ha]
  · exact ⟨[.reset], by simp⟩
  · exact ⟨[callObs s bs .abandoned (bs.take (k + 1)), .reset],
      by simp [isExpanderWrite_callObs hw (List.take_prefix (k + 1) bs)]⟩

theorem step_logsExpanderWrites {s t : State} (h : step s = .next t) : LogsExpanderWrites s t := by
  obtain ⟨hw, ⟨cut, -, rfl⟩ | ⟨-, ⟨-, -, rfl⟩ | ⟨w, rest, -, -, ⟨e, -, rfl⟩ | ⟨i, -, rfl⟩⟩ | ⟨i, -, -, ho⟩⟩⟩ :=
    step_cases h
  · exact resetStep_logsExpanderWrites (s := takeReset s) hw cut
  · exact ⟨[], by simp⟩
  · exact ⟨[.request w, .response .failIllegal], by simp [errorStatus]⟩
  · exact ⟨[.request w], by simp⟩
  · exact runOperation_logsExpanderWrites (s := takeReset s) hw ho

/-- Settles O54: the calls among the new entries of the log. -/
theorem onlyTheExpanderIsAddressed : Obligations.OnlyTheExpanderIsAddressed := by
  unfold Obligations.OnlyTheExpanderIsAddressed
  intro s t h
  obtain ⟨new, hl, hnew⟩ := step_logsExpanderWrites h
  exact ⟨new, hl, fun a bs r d hm => hnew _ hm⟩

/-! ### What a delivered byte does -/

section
variable {b : Byte} {s : State}

/-- A falling enable line latches one nibble, with the byte's RS level (R47 item 1). -/
theorem newLatch_of_enableFalls (hp : enLine s.cfg s.port = true) (hb : enLine s.cfg b = false) :
    newLatch b s = [⟨rsLine s.cfg b, latchedNibble b s⟩] := by
  simp [newLatch, hp, hb]

/-- Where the enable line was low already, nothing is latched (R47 item 2). -/
theorem newLatch_of_portEnableLow (hp : enLine s.cfg s.port = false) : newLatch b s = [] := by
  simp [newLatch, hp]

/-- The nibble latched is the byte's where nothing but the enable line moves with it (R47 item 1). -/
theorem latchedNibble_of_steady (hn : hiNibble b = hiNibble s.port) (hrs : rsLine s.cfg b = rsLine s.cfg s.port) :
    latchedNibble b s = hiNibble b := by
  simp [latchedNibble, hn, hrs]

end

/-- Settles O44: the latch by the enable line before and after the byte. -/
theorem fallingEnableLatchesOneNibble : Obligations.FallingEnableLatchesOneNibble := by
  unfold Obligations.FallingEnableLatchesOneNibble
  intro b s
  refine ⟨fun bs => deliver_append bs [b] s, deliverByte_port s b, fun hp hb => ⟨?_, fun hn hrs => ?_⟩, ?_⟩
  · exact ⟨latchedNibble b s, by rw [deliverByte_latched, newLatch_of_enableFalls hp hb]⟩
  · rw [deliverByte_latched, newLatch_of_enableFalls hp hb, latchedNibble_of_steady hn hrs]
  · rintro (hb | hp)
    · exact deliverByte_enableHigh hb
    · rw [deliverByte_latched, newLatch_of_portEnableLow hp, List.append_nil]

end Sys2Proof.Machine
end

section
/-!
PROOFS. Request words: which word decodes to which answer, by its fields, by the masks of the request table and by
arithmetic. Settles O14, O15, O16, O17 and O13.
-/

namespace Sys2Proof

/-! ### The decoder by the word's fields -/

/-- What the word's fields are for each answer of the decoder (R57, R66). -/
def DecodesTo (w : ReqWord) : Decoded → Prop
  | .op (.cmd b) => opcField w = 0x1#4 ∧ auxField w = 0#4 ∧ b = payField w
  | .op (.data b) => opcField w = 0x2#4 ∧ auxField w = 0#4 ∧ b = payField w
  | .op (.setcur row col) => opcField w = 0x3#4 ∧ auxHighField w = 0#3 ∧ row = rowField w ∧ col = payField w
  | .op .init => opcField w = 0x4#4 ∧ auxField w = 0#4 ∧ payField w = 0#8
  | .illegal .reservedOpcode =>
    opcField w ≠ 0x1#4 ∧ opcField w ≠ 0x2#4 ∧ opcField w ≠ 0x3#4 ∧ opcField w ≠ 0x4#4
  | .illegal .auxNotZero => (opcField w = 0x1#4 ∨ opcField w = 0x2#4) ∧ auxField w ≠ 0#4
  | .illegal .rowAuxNotZero => opcField w = 0x3#4 ∧ auxHighField w ≠ 0#3
  | .illegal .initOperandNotZero => opcField w = 0x4#4 ∧ (auxField w ≠ 0#4 ∨ payField w ≠ 0#8)

/-- The decoder's answer fits the word's fields. -/
theorem decodesTo_decode (w : ReqWord) : DecodesTo w (decode w) := by
  unfold decode
  split_ifs with h1 ha h2 ha h3 ha h4 hz
  · exact ⟨h1, ha, rfl⟩
  · exact ⟨.inl h1, ha⟩
  · exact ⟨h2, ha, rfl⟩
  · exact ⟨.inr h2, ha⟩
  · exact ⟨h3, ha, rfl, rfl⟩
  · exact ⟨h3, ha⟩
  · exact ⟨h4, hz⟩
  · exact ⟨h4, not_and_or.mp hz⟩
  · exact ⟨h1, h2, h3, h4⟩

/-- No other answer fits the word's fields. -/
theorem decode_of_decodesTo {w : ReqWord} {d : Decoded} (h : DecodesTo w d) : decode w = d := by
  rcases d with (b | b | ⟨row, col⟩ | -) | (- | - | - | -)
  · obtain ⟨ho, ha, rfl⟩ := h
    simp [decode, ho, ha]
  · obtain ⟨ho, ha, rfl⟩ := h
    simp [decode, ho, ha]
  · obtain ⟨ho, ha, rfl, rfl⟩ := h
    simp [decode, ho, ha]
  · obtain ⟨ho, ha, hp⟩ := h
    simp [decode, ho, ha, hp]
  · obtain ⟨h1, h2, h3, h4⟩ := h
    simp [decode, h1, h2, h3, h4]
  · obtain ⟨ho | ho, ha⟩ := h <;> simp [decode, ho, ha]
  · obtain ⟨ho, ha⟩ := h
    simp [decode, ho, ha]
  · obtain ⟨ho, hz⟩ := h
    simp [decode, ho, not_and_or.mpr hz]

theorem decode_eq_iff {w : ReqWord} {d : Decoded} : decode w = d ↔ DecodesTo w d :=
  ⟨fun h => h ▸ decodesTo_decode w, decode_of_decodesTo⟩

/-! ### A word is made of its fields -/

/-- A bit vector is its high field followed by its low field. -/
theorem high_append_low {m n : Nat} (w : BitVec (m + n)) : w.extractLsb' n m ++ w.extractLsb' 0 n = w :=
  (BitVec.extractLsb'_append_extractLsb'_eq_extractLsb' (Nat.zero_add n).symm).trans BitVec.extractLsb'_eq_self

theorem opc_append_aux (w : ReqWord) : opcField w ++ auxField w = w.extractLsb' 8 8 :=
  BitVec.extractLsb'_append_extractLsb'_eq_extractLsb' (start₁ := 8) (len₁ := 4) rfl

theorem opc_append_auxHigh (w : ReqWord) : opcField w ++ auxHighField w = w.extractLsb' 9 7 :=
  BitVec.extractLsb'_append_extractLsb'_eq_extractLsb' (start₁ := 9) (len₁ := 3) rfl

/-- A word is `OPC ++ AUX ++ PAY` (R54). -/
theorem word_eq_opc_aux_pay (w : ReqWord) : w = opcField w ++ auxField w ++ payField w := by
  rw [opc_append_aux]
  exact (high_append_low (m := 8) (n := 8) w).symm

/-- A word is `OPC ++ AUX[3:1] ++ AUX[0] ++ PAY` (R54, R57). -/
theorem word_eq_opc_auxHigh_row_pay (w : ReqWord) :
    w = opcField w ++ auxHighField w ++ rowField w ++ payField w := by
  have h : opcField w ++ auxHighField w ++ rowField w = opcField w ++ auxField w := by
    rw [opc_append_auxHigh, opc_append_aux]
    exact BitVec.extractLsb'_append_extractLsb'_eq_extractLsb' (start₁ := 8) (len₁ := 1) rfl
  exact (word_eq_opc_aux_pay w).trans (congrArg (· ++ payField w) h.symm)

/-- Settles O14, by the lemma on each request's fields. -/
theorem decodeOfEncodeIsTheRequest : Obligations.DecodeOfEncodeIsTheRequest := decode_encode

theorem decode_of_encode_eq {i : Instr} {w : ReqWord} (h : encode i = w) : decode w = .op i := h ▸ decode_encode i

/-- A legal word is made of its request's opcode, zeros and operands (R56, R68). -/
theorem eq_encode_of_decode {w : ReqWord} {i : Instr} (h : decode w = .op i) : w = encode i := by
  rw [decode_eq_iff] at h
  cases i with
  | cmd b =>
    obtain ⟨ho, ha, rfl⟩ := h
    exact (word_eq_opc_aux_pay w).trans (by rw [ho, ha]; rfl)
  | data b =>
    obtain ⟨ho, ha, rfl⟩ := h
    exact (word_eq_opc_aux_pay w).trans (by rw [ho, ha]; rfl)
  | setcur row col =>
    obtain ⟨ho, ha, rfl, rfl⟩ := h
    exact (word_eq_opc_auxHigh_row_pay w).trans (by rw [ho, ha]; rfl)
  | init =>
    obtain ⟨ho, ha, hp⟩ := h
    exact (word_eq_opc_aux_pay w).trans (by rw [ho, ha, hp]; rfl)

/-- Settles O15: the word is put together from the fields its request fixes. -/
theorem legalWordIsTheEncodingOfItsRequest : Obligations.LegalWordIsTheEncodingOfItsRequest :=
  fun _ _ => eq_encode_of_decode

/-! ### The masks of the request table -/

theorem append_eq_append_iff {m n : Nat} {x x' : BitVec m} {y y' : BitVec n} :
    x ++ y = x' ++ y' ↔ x = x' ∧ y = y' := by
  refine ⟨fun h => ⟨?_, ?_⟩, fun ⟨hx, hy⟩ => by rw [hx, hy]⟩
  · simpa [BitVec.extractLsb'_append_eq_left] using congrArg (BitVec.extractLsb' n m) h
  · simpa [BitVec.extractLsb'_append_eq_right] using congrArg (BitVec.extractLsb' 0 n) h

/-- Clearing a word's low `n` bits leaves its high field. -/
theorem and_highMask {m n : Nat} {mask : BitVec (m + n)} (hm : mask = BitVec.allOnes m ++ 0#n) (w : BitVec (m + n)) :
    w &&& mask = w.extractLsb' n m ++ 0#n := by
  conv_lhs => rw [hm, ← high_append_low w, BitVec.and_append, BitVec.and_allOnes, BitVec.and_zero]

/-- The mask of the rows of CMD and DATA (R56). -/
theorem and_FF00_eq_iff {o : BitVec 4} {p : ReqWord} (hp : p = o ++ 0#4 ++ 0#8) (w : ReqWord) :
    w &&& 0xFF00#16 = p ↔ opcField w = o ∧ auxField w = 0#4 := by
  have h : w &&& 0xFF00#16 = w.extractLsb' 8 8 ++ 0#8 := and_highMask (m := 8) (n := 8) (by decide) w
  rw [h, hp, ← opc_append_aux, append_eq_append_iff, append_eq_append_iff, and_iff_left rfl]

/-- The mask of SETCUR's row (R56). -/
theorem and_FE00_eq_iff {o : BitVec 4} {p : ReqWord} (hp : p = o ++ 0#3 ++ 0#9) (w : ReqWord) :
    w &&& 0xFE00#16 = p ↔ opcField w = o ∧ auxHighField w = 0#3 := by
  have h : w &&& 0xFE00#16 = w.extractLsb' 9 7 ++ 0#9 := and_highMask (m := 7) (n := 9) (by decide) w
  rw [h, hp, ← opc_append_auxHigh, append_eq_append_iff, append_eq_append_iff, and_iff_left rfl]

theorem payField_eq_setWidth (w : ReqWord) : payField w = w.setWidth 8 := rfl

theorem rowField_eq_setWidth (w : ReqWord) : rowField w = (w >>> 8).setWidth 1 := rfl

/-- Settles O16: each row's mask keeps exactly the fields the decoder compares. -/
theorem wordIsLegalExactlyWhenItMatchesARow : Obligations.WordIsLegalExactlyWhenItMatchesARow := by
  unfold Obligations.WordIsLegalExactlyWhenItMatchesARow
  refine ⟨fun w b => ?_, fun w b => ?_, fun w r c => ?_, fun w => ?_⟩
  · rw [decode_eq_iff, and_FF00_eq_iff (o := 0x1#4) (by decide), and_assoc, ← payField_eq_setWidth]
    rfl
  · rw [decode_eq_iff, and_FF00_eq_iff (o := 0x2#4) (by decide), and_assoc, ← payField_eq_setWidth]
    rfl
  · rw [decode_eq_iff, and_FE00_eq_iff (o := 0x3#4) (by decide), and_assoc, ← payField_eq_setWidth,
      ← rowField_eq_setWidth]
    rfl
  · rw [show w &&& 0xFFFF#16 = w from BitVec.and_allOnes]
    exact ⟨eq_encode_of_decode, fun h => h ▸ decode_encode .init⟩

/-! ### The illegal words -/

/-- Settles O17: the fields of each class, as numbers; the opcodes other than 1 to 4 are 0 and those from 5 up. -/
theorem illegalWordsFallInFourClasses : Obligations.IllegalWordsFallInFourClasses := by
  unfold Obligations.IllegalWordsFallInFourClasses
  intro w
  have hlt := w.isLt
  simp only [decode_eq_iff, DecodesTo, ne_eq, ← BitVec.toNat_inj, opcField_toNat, auxField_toNat, auxHighField_toNat,
    payField_toNat, BitVec.toNat_ofNat, and_true]
  omega

/-- The word of every request matches a row of the request table (R56). -/
theorem wordLegal_encode (i : Instr) : wordLegal (encode i) = true := by
  cases i with
  | cmd b => exact Laws.EncodeLegal.cmd b
  | data b => exact Laws.EncodeLegal.data b
  | setcur row col => exact Laws.EncodeLegal.setcur row col
  | init => exact Laws.EncodeLegal.init

/-- A word that matches no row of the request table is answered Illegal (R56, R57). -/
theorem decode_illegal_of_not_wordLegal {w : ReqWord} (h : wordLegal w = false) : ∃ e, decode w = .illegal e := by
  cases hd : decode w with
  | illegal e => exact ⟨e, rfl⟩
  | op i =>
    have hl := wordLegal_encode i
    rw [← eq_encode_of_decode hd, h] at hl
    cases hl

/-! ### The vectors -/

/-- Settles O13: the legal vectors are encodings; the others match no row of the request table. -/
theorem requestVectorsDecode : Obligations.RequestVectorsDecode := by
  unfold Obligations.RequestVectorsDecode
  refine ⟨decode_of_encode_eq (by decide), decode_of_encode_eq (by decide), decode_of_encode_eq (by decide),
    decode_of_encode_eq (by decide), decode_of_encode_eq (by decide), decode_of_encode_eq (by decide),
    decode_of_encode_eq (by decide), decode_of_encode_eq (by decide), fun w hw => decode_illegal_of_not_wordLegal ?_⟩
  revert w
  simp [wordLegal, requestTable]

end Sys2Proof
end

section
/-!
PROOFS. The control nibbles of the frames on the bus under the default parameters. Settles O25.
-/

namespace Sys2Proof.Machine

/-- The low half of a frame is its control nibble (R72). -/
theorem frame_and_lowMask (c : Config) (n : Nibble) (rs en : Bool) :
    frame c n rs en &&& 0x0F#8 = ctlNibble c rs en := by
  apply BitVec.eq_of_getLsbD_eq
  intro k hk
  have hmask : (0x0F#8).getLsbD k = decide (k < 4) := by revert k; decide
  rw [BitVec.getLsbD_and, hmask]
  by_cases h : k < 4
  · simp [h, frame_lowBit c n rs en ⟨k, h⟩]
  · simp [h, ctlNibble_highBit c rs en k (Nat.not_lt.mp h)]

/-- The four lines under the default wiring and levels (R5, R71). -/
theorem ctlNibble_default (n : Nat) (rs en : Bool) :
    ctlNibble { cols := n } rs en = lineAt rs 0 ||| lineAt false 1 ||| lineAt en 2 ||| lineAt true 3 := rfl

/-- Settles O25: a frame's low half is its control nibble, and the default wiring has one for each pair of levels. -/
theorem onlyFourControlNibblesAreSent : Obligations.OnlyFourControlNibblesAreSent := by
  unfold Obligations.OnlyFourControlNibblesAreSent
  intro n i f hf
  obtain ⟨l, -, en, rfl⟩ := mem_bytesOf_eventsOf hf
  rw [frame_and_lowMask, ctlNibble_default]
  clear hf
  generalize l.rs = rs
  revert rs en
  decide

end Sys2Proof.Machine
end

section
/-!
PROOFS. The frame encoder: the control nibble, the four frames of a byte, how a grouping cuts them into transactions, the
strobe pairs and lines of every frame, and what the transactions of CMD and DATA do. Settles O18, O19, O20, O21, O22, O23,
O24, O35 and O36.
-/

namespace Sys2Proof.Machine

/-! ### The control nibble -/

/-- Settles O18: at most one of the four positions is `k`, since a well-formed wiring has them distinct. -/
theorem controlNibblePlacesFourLines : Obligations.ControlNibblePlacesFourLines := by
  unfold Obligations.ControlNibblePlacesFourLines
  refine ⟨fun c rs en k hw => ?_, fun n => ?_⟩
  · obtain ⟨hRsRw, hRsEn, hRsBl, hRwEn, hRwBl, hEnBl⟩ := positions_ne hw
    rw [ctlNibble_bit]
    split_ifs with hRs hRw hEn hBl
    · simp [hRs, hRsRw, hRsEn, hRsBl]
    · simp [hRw, hRsRw.symm, hRwEn, hRwBl]
    · simp [hEn, hRsEn.symm, hRwEn.symm, hEnBl]
    · simp [hBl, hRsBl.symm, hRwBl.symm, hEnBl.symm]
    · simp [hRs, hRw, hEn, hBl]
  · simp only [ctlNibble_default]
    decide

/-! ### The four frames of a byte, by masks and shifts -/

section
variable (c : Config) (b : Byte) (rs en : Bool)

theorem frame_hiNibble : frame c (hiNibble b) rs en = (b &&& 0xF0#8) ||| ctlNibble c rs en := by
  rw [frame, hiNibble_mask]

theorem frame_loNibble : frame c (loNibble b) rs en = ((b <<< 4) &&& 0xF0#8) ||| ctlNibble c rs en := by
  rw [frame, loNibble_mask]

theorem strobe_hiNibble : strobe c (hiNibble b) rs =
    [(b &&& 0xF0#8) ||| ctlNibble c rs true, (b &&& 0xF0#8) ||| ctlNibble c rs false] := by
  simp only [strobe, frame_hiNibble]

theorem strobe_loNibble : strobe c (loNibble b) rs =
    [((b <<< 4) &&& 0xF0#8) ||| ctlNibble c rs true, ((b <<< 4) &&& 0xF0#8) ||| ctlNibble c rs false] := by
  simp only [strobe, frame_loNibble]

theorem enc_eq_masks : enc c b rs =
    [(b &&& 0xF0#8) ||| ctlNibble c rs true, (b &&& 0xF0#8) ||| ctlNibble c rs false,
      ((b <<< 4) &&& 0xF0#8) ||| ctlNibble c rs true, ((b <<< 4) &&& 0xF0#8) ||| ctlNibble c rs false] := by
  rw [enc, strobe_hiNibble, strobe_loNibble]
  rfl

end

/-- Settles O19: the byte streams are the encodings, and a nibble's data field is a mask of the byte. -/
theorem nibbleSplitFrames : Obligations.NibbleSplitFrames := by
  unfold Obligations.NibbleSplitFrames
  exact fun c b => ⟨(bytesOf_eventsCmd c b).trans (enc_eq_masks c b false),
    (bytesOf_eventsData c b).trans (enc_eq_masks c b true)⟩

/-! ### Groupings -/

/-- The nibbles a request latches do not depend on the grouping (R78). -/
theorem operationLatches_withGroup (c : Config) (g : Grouping) (i : Instr) :
    operationLatches { c with group := g } i = operationLatches c i := by
  cases i <;> rfl

/-- Settles O20: the byte stream is that of the latched nibbles, and no frame depends on the grouping. -/
theorem groupingKeepsTheByteStream : Obligations.GroupingKeepsTheByteStream := by
  unfold Obligations.GroupingKeepsTheByteStream
  refine fun c g => ⟨fun b => ⟨bytesOf_eventsCmd { c with group := g } b, bytesOf_eventsData { c with group := g } b⟩,
    fun i => ?_⟩
  rw [bytesOf_eventsOf, bytesOf_eventsOf, operationLatches_withGroup]
  rfl

section
variable {c : Config} {g : Grouping} (h : c.group = g) (b : Byte)
include h

theorem eventsOf_cmd_of_group : eventsOf c (.cmd b) = groupFrames g (enc c b false) .command :=
  congrArg (groupFrames · (enc c b false) .command) h

theorem eventsOf_data_of_group : eventsOf c (.data b) = groupFrames g (enc c b true) .character :=
  congrArg (groupFrames · (enc c b true) .character) h

end

/-- Settles O21: each row of the table is `GROUP` at that grouping. -/
theorem groupingTable : Obligations.GroupingTable := by
  unfold Obligations.GroupingTable
  exact fun c b => ⟨fun h => ⟨eventsOf_cmd_of_group h b, eventsOf_data_of_group h b⟩,
    fun h => ⟨eventsOf_cmd_of_group h b, eventsOf_data_of_group h b⟩,
    fun h => ⟨eventsOf_cmd_of_group h b, eventsOf_data_of_group h b⟩,
    fun h => ⟨eventsOf_cmd_of_group h b, eventsOf_data_of_group h b⟩⟩

/-! ### The lines of the frames on the bus -/

/-- The two frames that strobe one nibble into the controller (R73). -/
def strobePair (c : Config) (l : Latch) : Byte × Byte := (frame c l.nibble l.rs true, frame c l.nibble l.rs false)

/-- The byte stream of a request is the strobe pairs of the nibbles it latches, in order (R73, R80). -/
theorem bytesOf_eventsOf_eq_pairs (c : Config) (i : Instr) :
    bytesOf (eventsOf c i) = ((operationLatches c i).map (strobePair c)).flatMap fun p => [p.1, p.2] := by
  rw [bytesOf_eventsOf, List.flatMap_map]
  rfl

/-- A frame depends on its enable level in the enable bit only (R73). -/
theorem frame_bit_of_ne_posEn {c : Config} {k : Nat} (hk : k ≠ c.posEn.val) (n : Nibble) (rs en en' : Bool) :
    (frame c n rs en).getLsbD k = (frame c n rs en').getLsbD k := by
  simp [frame_bit, ctlNibble_bit, hk]

/-- Settles O22: the pairs are those of the nibbles the request latches. -/
theorem enablePulsePairing : Obligations.EnablePulsePairing := by
  unfold Obligations.EnablePulsePairing
  refine fun c i hw => ⟨(operationLatches c i).map (strobePair c), bytesOf_eventsOf_eq_pairs c i, fun p hp => ?_⟩
  obtain ⟨l, -, rfl⟩ := List.mem_map.mp hp
  exact ⟨enLine_frame hw .., enLine_frame hw .., fun k hk => frame_bit_of_ne_posEn hk ..⟩

/-- Where all nibbles of a request are latched with one register-select level, all its frames carry it (R81). -/
theorem rsLine_of_latches {c : Config} {i : Instr} {level : Bool} (hw : c.wf = true)
    (hl : ∀ l ∈ operationLatches c i, l.rs = level) : ∀ f ∈ bytesOf (eventsOf c i), rsLine c f = level := by
  intro f hf
  obtain ⟨l, hmem, en, rfl⟩ := mem_bytesOf_eventsOf hf
  rw [rsLine_frame hw, hl l hmem]

/-- Settles O23: the level of a frame is that of its nibble's latch. -/
theorem registerSelectIsOneExactlyForData : Obligations.RegisterSelectIsOneExactlyForData := by
  unfold Obligations.RegisterSelectIsOneExactlyForData
  exact fun c hw => ⟨fun b => rsLine_of_latches hw fun _ => operationLatches_rs,
    fun r k => rsLine_of_latches hw fun _ => operationLatches_rs,
    rsLine_of_latches hw fun _ => operationLatches_rs,
    fun b => rsLine_of_latches hw fun _ => operationLatches_rs⟩

/-- Settles O24: every byte on the bus is a frame, whose two lines come from the configuration. -/
theorem readWriteAndBacklightAreConstant : Obligations.ReadWriteAndBacklightAreConstant := by
  unfold Obligations.ReadWriteAndBacklightAreConstant
  intro c i hw f hf
  obtain ⟨l, -, en, rfl⟩ := mem_bytesOf_eventsOf hf
  exact ⟨rwLine_frame hw .., blLine_frame hw ..⟩

/-! ### The transactions of CMD and DATA -/

/-- A byte's four frames latch its two nibbles, high first, whatever the port held before (R40, R47). -/
theorem deliver_enc {s : State} (hw : s.cfg.wf = true) (b : Byte) (rs : Bool) :
    deliver (enc s.cfg b rs) s =
      { s with port := frame s.cfg (loNibble b) rs false, latched := s.latched ++ byteLatches rs b } := by
  rw [enc, deliver_append, deliver_strobe hw]
  refine (deliver_strobe (s := { s with port := _, latched := s.latched ++ [_] }) hw (loNibble b) rs).trans ?_
  simp [byteLatches]

/-- A transaction that the transport answers `ok`, where the delivered bytes leave `port` on the expander and latch `new`:
no request but INIT moves `CTRL` (R25, R27). -/
theorem exec_okXfer {i : Instr} {s : State} {bs : List Byte} {port : Byte} {new : List Latch} (hi : i ≠ .init)
    (hw : s.cfg.wf = true) (hp : s.phase = .busy) (he : (eventsOf s.cfg i)[s.eidx.toNat]? = some (.xfer bs))
    (ha : nextAnswer s = .ok) (hd : deliver bs s = { s with port := port, latched := s.latched ++ new }) :
    exec i s = .next { s with
      eidx := s.eidx + 1#6, port := port, latched := s.latched ++ new
      log := s.log ++ [.memWrite 0x27#7 bs .ok bs]
      answers := s.answers.tail, calls := s.calls + 1 } := by
  have hport : portAfter bs s.port = port := by rw [← deliver_port, hd]
  rw [exec_eq, runOperation_completes hp he fun _ => ha, markAt_of_ne_init hi, completeEvent, xferCount_xfer,
    List.drop_one, eventBytes, hport, hd, doneObs, wf_addr7 hw]
  rfl

/-- Where a command's frames go out in pairs, each transaction strobes one nibble (R75, R77). -/
theorem eventsCmd_of_pairs {c : Config} (hg : c.group = .source ∨ c.group = .perNibble) (b : Byte) :
    eventsCmd c b = [.xfer (strobe c (hiNibble b) false), .xfer (strobe c (loNibble b) false)] :=
  hg.elim (fun h => eventsOf_cmd_of_group h b) fun h => eventsOf_cmd_of_group h b

/-- Where a character's frames go out together, its one transaction is the whole encoding (R76, R77). -/
theorem eventsData_of_whole {c : Config} (hg : c.group = .source ∨ c.group = .perByteOp) (b : Byte) :
    eventsData c b = [.xfer (enc c b true)] :=
  hg.elim (fun h => eventsOf_data_of_group h b) fun h => eventsOf_data_of_group h b

/-- Settles O35: two strobe pairs, one nibble each, and then the response. -/
theorem cmdSendsHighThenLowNibble : Obligations.CmdSendsHighThenLowNibble := by
  unfold Obligations.CmdSendsHighThenLowNibble
  intro b s hw hp hg hi1 hi0 lo1 lo0
  have hev : eventsOf s.cfg (.cmd b) =
      [.xfer (strobe s.cfg (hiNibble b) false), .xfer (strobe s.cfg (loNibble b) false)] := eventsCmd_of_pairs hg b
  refine ⟨fun hk ha => ?_, fun hk ha => ?_, fun hk => ?_⟩
  · rw [exec_okXfer (i := .cmd b) nofun hw hp (by rw [hev, hk]; rfl) ha (deliver_strobe hw (hiNibble b) false),
      strobe_hiNibble, frame_hiNibble, hk]
    rfl
  · rw [exec_okXfer (i := .cmd b) nofun hw hp (by rw [hev, hk]; rfl) ha (deliver_strobe hw (loNibble b) false),
      strobe_loNibble, frame_loNibble, hk]
    rfl
  · exact lastEventIsFollowedByOk (.cmd b) s hp (by rw [hev, hk]; rfl)

/-- Settles O36: one transaction of the four frames, and then the response. -/
theorem dataSendsOneTransactionOfFourFrames : Obligations.DataSendsOneTransactionOfFourFrames := by
  unfold Obligations.DataSendsOneTransactionOfFourFrames
  intro b s hw hp hg hi1 hi0 lo1 lo0
  have hev : eventsOf s.cfg (.data b) = [.xfer (enc s.cfg b true)] := eventsData_of_whole hg b
  refine ⟨fun hk ha => ?_, fun hk => ?_⟩
  · rw [exec_okXfer (i := .data b) nofun hw hp (by rw [hev, hk]; rfl) ha (deliver_enc hw b true), enc_eq_masks,
      frame_loNibble, hk]
    rfl
  · exact lastEventIsFollowedByOk (.data b) s hp (by rw [hev, hk]; rfl)

end Sys2Proof.Machine
end

section
/-!
PROOFS. SETCUR: its command byte, and that it does what CMD of that byte does. Settles O27, O28 and O37.
-/

namespace Sys2Proof.Machine

/-- The fixed bases of the two rows (R5, R90). -/
theorem rowBase_of_wf {c : Config} (hw : c.wf = true) (row : BitVec 1) :
    rowBase c row = if row = 0#1 then 0x80#8 else 0xC0#8 := by
  rw [rowBase, wf_row0Base hw, wf_row1Base hw]

theorem cursorCommand_row0_toNat {c : Config} (hw : c.wf = true) (col : Byte) :
    (cursorCommand c 0#1 col).toNat = (0x80 + col.toNat) % 256 := by
  rw [cursorCommand, rowBase_of_wf hw, if_pos rfl, BitVec.toNat_add]
  rfl

theorem cursorCommand_row1_toNat {c : Config} (hw : c.wf = true) (col : Byte) :
    (cursorCommand c 1#1 col).toNat = (0xC0 + col.toNat) % 256 := by
  rw [cursorCommand, rowBase_of_wf hw, if_neg (by decide), BitVec.toNat_add]
  rfl

/-- SETCUR's events are those of its command (R89). -/
theorem eventsOf_setcur (c : Config) (row : BitVec 1) (col : Byte) :
    eventsOf c (.setcur row col) = eventsOf c (.cmd (cursorCommand c row col)) := rfl

/-- Settles O27: the command byte as a number, which wraps where base and column reach 256. -/
theorem setcurSendsBasePlusColumn : Obligations.SetcurSendsBasePlusColumn := by
  unfold Obligations.SetcurSendsBasePlusColumn
  intro c col hw
  have h0 := cursorCommand_row0_toNat hw col
  have h1 := cursorCommand_row1_toNat hw col
  have hcol := col.isLt
  refine ⟨?_, ?_, by omega, by omega, by omega, by omega⟩
  · rw [eventsOf_setcur, ← h0, BitVec.ofNat_toNat, BitVec.setWidth_eq]
  · rw [eventsOf_setcur, ← h1, BitVec.ofNat_toNat, BitVec.setWidth_eq]

/-- Settles O28: both run the operation with the same events and no mark of `CTRL`. -/
theorem setcurActsAsCmd : Obligations.SetcurActsAsCmd := fun _ _ _ => rfl

/-- Settles O37: what CMD does with SETCUR's command byte. -/
theorem setcurSendsItsCommandByte : Obligations.SetcurSendsItsCommandByte := by
  unfold Obligations.SetcurSendsItsCommandByte
  intro row col s hw hp hg
  rw [setcurActsAsCmd, cursorCommand, rowBase_of_wf hw]
  exact cmdSendsHighThenLowNibble _ s hw hp hg

end Sys2Proof.Machine
end

section
/-!
PROOFS. The host awaits the response of one presented word: a word is held for a bounded number of steps, and a request
taken ends within the steps of its operation. Settles O57.
-/

namespace Sys2Proof.Machine

/-! ### Where a step stops -/

/-- An operation stops nowhere but in a call that never returns, as long as `EIDX` is in its range (R21, R119). -/
theorem runOperation_next_or_hung {op : Operation} {s : State} (h : s.eidx.toNat ≤ op.events.length) :
    (∃ t, runOperation op s = .next t) ∨ runOperation op s = .fault .transportNeverReturns := by
  cases hp : s.phase with
  | idle => exact .inl ⟨_, runOperation_idle hp op⟩
  | busy =>
    obtain he | he := h.eq_or_lt
    · exact .inl ⟨_, runOperation_complete hp he⟩
    · have hg := List.getElem?_eq_getElem he
      generalize op.events[s.eidx.toNat] = e at hg
      cases e with
      | wait us => exact .inl ⟨_, runOperation_wait hp hg⟩
      | xfer bs =>
        rw [runOperation_xfer hp hg]
        obtain ⟨-, hx⟩ | ⟨j, -, hx⟩ | ⟨-, hx⟩ := performXfer_cases (op.markAt s.eidx.toNat) bs s
        · exact .inl ⟨_, hx⟩
        · exact .inl ⟨_, hx⟩
        · exact .inr hx

/-- An illegal word is refused at acceptance (R117). -/
theorem step_refuses {s : State} {w : ReqWord} {rest : List ReqWord} {e : DecodeError} (hw : s.cfg.wf = true)
    (hr : resetLow s = true) (hp : s.phase = .idle) (hq : s.requests = w :: rest) (hd : decode w = .illegal e) :
    step s = .next (raiseError .illegalRequest (latchRequest w rest (takeReset s))) := by
  simp [step_sequencer hw hr, sequencerStep, acceptStep, hp, hq, hd]

/-- An idle block takes the presented word: it is then BUSY with it, or has refused it (R25, R117). -/
theorem step_takes {s : State} {w : ReqWord} {rest : List ReqWord} (hw : s.cfg.wf = true) (hr : resetLow s = true)
    (hp : s.phase = .idle) (hq : s.requests = w :: rest) :
    ∃ t, step s = .next t ∧ t.requests = rest ∧
      (t.phase = .busy ∨ (t.phase = .idle ∧ t.status = .failIllegal)) := by
  cases hd : decode w with
  | op i =>
    obtain rfl : w = encode i := eq_encode_of_decode hd
    exact ⟨_, step_accept hw hr hp hq, rfl, .inl rfl⟩
  | illegal e =>
    exact ⟨_, step_refuses hw hr hp hq hd, rfl, .inr ⟨rfl, rfl⟩⟩

theorem wf_of_inv {s : State} (h : s.Inv) : s.cfg.wf = true := by
  obtain ⟨⟨hw, -⟩, -⟩ := h
  exact hw

/-- A BUSY block steps on, but in a call that never returns (R119, R128, R136). -/
theorem step_busy_next_or_hung {s : State} (h : s.Inv) (hp : s.phase = .busy) :
    (∃ t, step s = .next t) ∨ step s = .fault .transportNeverReturns := by
  obtain ⟨⟨hw, hb⟩, -⟩ := h
  obtain ⟨-, i, hd, he⟩ := hb hp
  cases hr : resetLow s with
  | false =>
    obtain ⟨cut, hc⟩ := resetLow_eq_false_iff.mp hr
    exact .inl ⟨_, step_reset hw hc⟩
  | true =>
    rw [step_sequencer hw hr, sequencerStep_busy (s := takeReset s) hp hd, exec_eq]
    exact runOperation_next_or_hung (s := takeReset s) he

/-! ### How a step of a BUSY block, and a reset, leave the block -/

/-- A reset leaves the block idle and takes no word (R136). -/
theorem StepTo.of_reset {s t : State} (h : StepTo s t) (hr : resetLow s = false) :
    t.phase = .idle ∧ t.requests = s.requests := by
  cases h with
  | reset => exact ⟨rfl, rfl⟩
  | abandon => exact ⟨rfl, by simp⟩
  | _ => simp_all

/-- A running request that ends without a reset has responded (R29). -/
theorem StepTo.status_of_ended {s t : State} (h : StepTo s t) (hr : resetLow s = true) (hp : s.phase = .busy)
    (ht : t.phase = .idle) : t.status ≠ .none := by
  cases h with
  | complete => simp
  | fail => simp [errorStatus]
  | event => simp [hp] at ht
  | _ => simp_all

/-- A sample that asserts the reset line is one of those left. -/
theorem length_resets_lt {s t : State} (h : step s = .next t) (hr : resetLow s = false) :
    t.resets.length < s.resets.length := by
  obtain ⟨cut, hc⟩ := resetLow_eq_false_iff.mp hr
  obtain ⟨l, hl⟩ := List.head?_eq_some_iff.mp hc
  simp [step_resets h, hl]

/-- The position of a BUSY block in its operation, which has at most 36 events (R21, R107). -/
theorem eidx_le_of_busy {s : State} (h : s.Inv) (hp : s.phase = .busy) : s.eidx.toNat ≤ 36 := by
  obtain ⟨⟨-, hb⟩, -⟩ := h
  obtain ⟨-, i, -, he⟩ := hb hp
  exact he.trans (eventsOf_length_le s.cfg i)

/-! ### The host's waiting ends -/

/-- The ends of the host's waiting for a word, after which it presents `rest`: the response, an abandoned request, or a
hung transport (R29, R119, R136). -/
def WaitingEnds (rest : List ReqWord) (o : Host.Outcome (State × Reply) Fault Refusal) : Prop :=
  (∃ t, o = .next (t, .response t.status) ∧ t.status ≠ .none ∧ t.phase = .idle ∧ t.requests = rest) ∨
    (∃ t, o = .next (t, .abandoned) ∧ t.phase = .idle ∧ t.requests = rest) ∨
    o = .fault .transportNeverReturns

/-- A request taken has its end after at most one step for each event left, and one more. -/
theorem waitingEnds_of_taken (n : Nat) : ∀ s : State, s.Inv → s.phase = .busy → 37 ≤ n + s.eidx.toNat →
    WaitingEnds s.requests (awaitResponse n true s) := by
  induction n with
  | zero =>
    intro s hinv hp hn
    have := eidx_le_of_busy hinv hp
    omega
  | succ n ih =>
    intro s hinv hp hn
    obtain ⟨t, h⟩ | h := step_busy_next_or_hung hinv hp
    · have hst := stepTo_of_step h
      have hq : t.requests = s.requests := hst.requests_of_busy hp
      cases hr : resetLow s with
      | false =>
        obtain ⟨ht, -⟩ := hst.of_reset hr
        exact .inr (.inl ⟨t, awaitResponse_abandoned h n hr, ht, hq⟩)
      | true =>
        cases ht : t.phase with
        | idle => exact .inl ⟨t, awaitResponse_answered h n hr ht, hst.status_of_ended hr hp ht, ht, hq⟩
        | busy =>
          have hidx : t.eidx.toNat = s.eidx.toNat + 1 := (eventIndexCountsUpByOne s t hinv h ht).2 hp
          rw [awaitResponse_running h n hr ht, ← hq]
          exact ih t (stepKeepsInvariant s t hinv h) ht (by omega)
    · exact .inr (.inr (awaitResponse_fault h n true))

/-- The steps for which a presented word can be held: one for each reset sample, and those of the running operation. -/
def holdBound (s : State) : Nat :=
  s.resets.length +
    match s.phase with
    | .idle => 0
    | .busy => 37 - s.eidx.toNat

theorem holdBound_idle {s : State} (hp : s.phase = .idle) : holdBound s = s.resets.length := by
  simp [holdBound, hp]

theorem holdBound_busy {s : State} (hp : s.phase = .busy) :
    holdBound s = s.resets.length + (37 - s.eidx.toNat) := by
  simp [holdBound, hp]

/-- A step that holds the presented word leaves fewer such steps. -/
theorem holdBound_lt {s t : State} (hinv : s.Inv) (h : step s = .next t)
    (hold : resetLow s = false ∨ s.phase = .busy) : holdBound t < holdBound s := by
  cases hr : resetLow s with
  | false =>
    obtain ⟨ht, -⟩ := (stepTo_of_step h).of_reset hr
    rw [holdBound_idle ht]
    exact (length_resets_lt h hr).trans_le (Nat.le_add_right _ _)
  | true =>
    have hp : s.phase = .busy := hold.resolve_left (by simp [hr])
    have hle : t.resets.length ≤ s.resets.length := by simp [step_resets h]
    have hidx := eidx_le_of_busy hinv hp
    rw [holdBound_busy hp]
    cases ht : t.phase with
    | idle =>
      rw [holdBound_idle ht]
      omega
    | busy =>
      have hsucc : t.eidx.toNat = s.eidx.toNat + 1 := (eventIndexCountsUpByOne s t hinv h ht).2 hp
      rw [holdBound_busy ht]
      omega

/-- A presented word is held within its bound, and then taken or refused (R26, R94, R147). -/
theorem waitingEnds_of_presented {w : ReqWord} {rest : List ReqWord} (n : Nat) :
    ∀ s : State, s.Inv → s.requests = w :: rest → holdBound s + 38 ≤ n →
      WaitingEnds rest (awaitResponse n false s) := by
  induction n with
  | zero => exact fun s _ _ hn => absurd hn (by omega)
  | succ n ih =>
    intro s hinv hq hn
    have held : ∀ t, step s = .next t → (resetLow s = false ∨ s.phase = .busy) → t.requests = s.requests →
        WaitingEnds rest (awaitResponse n false t) := fun t h hold hqt =>
      ih t (stepKeepsInvariant s t hinv h) (hqt.trans hq) (by have := holdBound_lt hinv h hold; omega)
    have hw := wf_of_inv hinv
    cases hr : resetLow s with
    | false =>
      obtain ⟨cut, hc⟩ := resetLow_eq_false_iff.mp hr
      have h := step_reset hw hc
      rw [awaitResponse_heldOverReset h n hr]
      exact held _ h (.inl hr) ((stepTo_of_step h).of_reset hr).2
    | true =>
      cases hp : s.phase with
      | busy =>
        obtain ⟨t, h⟩ | h := step_busy_next_or_hung hinv hp
        · rw [awaitResponse_held h n hp]
          exact held t h (.inr hp) ((stepTo_of_step h).requests_of_busy hp)
        · exact .inr (.inr (awaitResponse_fault h n false))
      | idle =>
        obtain ⟨t, h, hqt, ht | ⟨ht, hst⟩⟩ := step_takes hw hr hp hq
        · rw [awaitResponse_taken h n hr hp ht, ← hqt]
          exact waitingEnds_of_taken n t (stepKeepsInvariant s t hinv h) ht (by omega)
        · exact .inl ⟨t, awaitResponse_refused h n hr hp ht, by simp [hst], ht, hqt⟩

/-- A presented word is no part of the invariant (R26). -/
theorem present_inv {s : State} (h : s.Inv) (w : ReqWord) : (present w s).Inv := h

/-- The host waits longer than a word can be held and its operation can run. -/
theorem holdBound_le_awaitBound (s : State) : holdBound s + 38 ≤ awaitBound s := by
  unfold awaitBound
  cases hp : s.phase with
  | idle =>
    rw [holdBound_idle hp]
    omega
  | busy =>
    rw [holdBound_busy hp]
    omega

/-- Settles O57: the word is presented, and the host's waiting ends within its bound. -/
theorem issuedRequestIsAnsweredOrAbandoned : Obligations.IssuedRequestIsAnsweredOrAbandoned := by
  unfold Obligations.IssuedRequestIsAnsweredOrAbandoned
  exact fun w s hinv =>
    waitingEnds_of_presented (awaitBound s) (present w s) (present_inv hinv w) rfl (holdBound_le_awaitBound s)

end Sys2Proof.Machine
end

section
/-!
PROOFS. PRINT: one presented request whose run takes it and comes back to idle, and the text by induction on its codes.
Settles O56, O58 and O59.
-/

namespace Sys2Proof.Machine

/-- Settles O56: the empty text expands to no word. -/
theorem printOfEmptyTextDoesNothing : Obligations.PrintOfEmptyTextDoesNothing := ⟨rfl, fun _ => rfl⟩

/-! ### One request presented to an idle block -/

section
variable {i : Instr} {s : State} {k : Nat} {later : List TransportAnswer} (hw : s.cfg.wf = true)
  (hp : s.phase = .idle) (hn : NoReset (k + 2) s) (hk : k ≤ (eventsOf s.cfg i).length)
  (ha : s.answers = List.replicate (xferCount ((eventsOf s.cfg i).take k)) .ok ++ later)
include hw hp hn hk ha

/-- The block is BUSY from the acceptance up to the completion of event `k` (R25). -/
theorem busy_until_event {rest : List ReqWord} (hq : s.requests = encode i :: rest) {j : Nat} (hj : j ≤ k) :
    ∃ u, runSteps (j + 1) s = .next u ∧ u.phase = .busy ∧ resetLow u = true := by
  have hcount := xferCount_append (((eventsOf s.cfg i).take k).take j) (((eventsOf s.cfg i).take k).drop j)
  rw [List.take_append_drop, List.take_take, min_eq_left hj] at hcount
  rw [hcount, List.replicate_add, List.append_assoc] at ha
  exact ⟨_, runSteps_afterEvents hw hp hq (hj.trans hk) (noReset_mono hn (by omega)) ha, rfl,
    resetLow_of_noReset hn (by omega) rfl⟩

/-- The host has the response of a request whose run ends idle after `k` events (R94). -/
theorem issueRequest_of_request {t : State} (ht : t.phase = .idle)
    (h : runSteps (k + 2) (present (encode i) s) = .next t) :
    issueRequest (encode i) s = .next (t, .response t.status) :=
  issueRequest_of_run hp (resetLow_of_noReset hn (by omega) List.drop_zero.symm) ht
    (fun _ hj => busy_until_event (s := present (encode i) s) hw hp hn hk ha rfl hj) h
    (by have := eventsOf_length_le s.cfg i; omega)

end

/-- The state after the request `i` ran to its end, with the answers `later` left (R25, R84, R108). -/
def afterRequest (i : Instr) (later : List TransportAnswer) (s : State) : State :=
  { s with
    req := encode i, eidx := BitVec.ofNat 6 (eventsOf s.cfg i).length, status := .ok
    port := portAfter (bytesOf (eventsOf s.cfg i)) s.port
    ctrl := if i = .init then .clearedReady else s.ctrl
    latched := s.latched ++ operationLatches s.cfg i
    log := s.log ++ [.request (encode i)] ++ (eventsOf s.cfg i).map (doneObs 0x27#7) ++ [.response .ok]
    resets := s.resets.drop ((eventsOf s.cfg i).length + 2)
    answers := later, calls := s.calls + xferCount (eventsOf s.cfg i) }

/-- A request that the transport lets run to its end is answered `OK` (R25, R94). -/
theorem issueRequest_ok {i : Instr} {s : State} {later : List TransportAnswer} (hw : s.cfg.wf = true)
    (hp : s.phase = .idle) (hn : NoReset ((eventsOf s.cfg i).length + 2) s)
    (ha : s.answers = List.replicate (xferCount (eventsOf s.cfg i)) .ok ++ later) :
    issueRequest (encode i) s = .next (afterRequest i later s, .response .ok) :=
  issueRequest_of_request (t := afterRequest i later s) hw hp hn le_rfl (by rw [List.take_length]; exact ha) hp
    (requestRunsToCompletion i (present (encode i) s) s.requests later hw hp hn rfl ha)

/-- A call that fails in a state `afterEvents` ends the request (R115, R118). -/
theorem step_afterEvents_fails {i : Instr} {rest : List ReqWord} {bs : List Byte} {j k : Nat} {s : State}
    {later : List TransportAnswer} (hw : s.cfg.wf = true) (hn : NoReset (k + 2) s)
    (he : (eventsOf s.cfg i)[k]? = some (.xfer bs)) :
    step (afterEvents i rest (.fail j :: later) k s) =
      .next (raiseError .transportFailure (observe (callObs s bs .fail (bs.take j))
        (deliver (bs.take j) (takeAnswer (takeReset (afterEvents i rest (.fail j :: later) k s)))))) := by
  have hr : resetLow (afterEvents i rest (.fail j :: later) k s) = true :=
    resetLow_of_noReset hn (Nat.lt_succ_self _) rfl
  have hidx : (afterEvents i rest (.fail j :: later) k s).eidx.toNat = k :=
    afterEvents_eidx_toNat (List.getElem?_eq_some_iff.mp he).1.le
  rw [step_sequencer (s := afterEvents i rest (.fail j :: later) k s) hw hr,
    sequencerStep_busy (s := takeReset (afterEvents i rest (.fail j :: later) k s)) rfl (decode_encode i), exec_eq,
    runOperation_xfer (s := takeReset (afterEvents i rest (.fail j :: later) k s)) rfl (by
      rw [takeReset_eidx, hidx]
      exact he),
    performXfer_fail rfl]
  rfl

/-- A request whose event `k` fails is answered `FAIL_TRANSPORT`, after its earlier events and a leading part of that
one (R115, R118, R123). -/
theorem issueRequest_fails {i : Instr} {s : State} {bs : List Byte} {j k : Nat} {later : List TransportAnswer}
    (hw : s.cfg.wf = true) (hp : s.phase = .idle) (hn : NoReset (k + 2) s)
    (he : (eventsOf s.cfg i)[k]? = some (.xfer bs))
    (ha : s.answers = List.replicate (xferCount ((eventsOf s.cfg i).take k)) .ok ++ .fail j :: later) :
    ∃ t, issueRequest (encode i) s = .next (t, .response .failTransport) ∧ t.phase = .idle ∧
      t.status = .failTransport ∧ t.requests = s.requests ∧ t.answers = later ∧
      t.log = s.log ++ .request (encode i) :: ((eventsOf s.cfg i).take k).map (doneObs s.cfg.addr7) ++
        [callObs s bs .fail (bs.take j), .response .failTransport] := by
  have hk : k ≤ (eventsOf s.cfg i).length := (List.getElem?_eq_some_iff.mp he).1.le
  have hrun := runSteps_afterEvents (s := present (encode i) s) (rest := s.requests) hw hp rfl hk
    (noReset_mono hn (Nat.le_succ _)) ha
  have hlast := (runSteps_snoc hrun).trans (step_afterEvents_fails (s := present (encode i) s) hw hn he)
  refine ⟨_, issueRequest_of_request hw hp hn hk ha rfl hlast, rfl, rfl, ?_, ?_, ?_⟩
  · simp [afterEvents]
  · simp [afterEvents]
  · simp [afterEvents, errorStatus, callObs]

/-! ### A text, code by code -/

/-- What the log gains with a code that PRINT sends in full (R76, R94). -/
def codeLog (c : Config) (b : Byte) : List Obs :=
  .request (encode (.data b)) :: (eventsOf c (.data b)).map (doneObs 0x27#7) ++ [.response .ok]

theorem deliveredSeen_codeLog (c : Config) (b : Byte) : deliveredSeen (codeLog c b) = enc c b true := by
  have henc : bytesOf (eventsOf c (.data b)) = enc c b true := bytesOf_eventsData c b
  simp [codeLog, deliveredSeen_doneObs, henc]

theorem responsesSeen_codeLog (c : Config) (b : Byte) : responsesSeen (codeLog c b) = [.ok] := by
  simp [codeLog, responsesSeen_doneObs]

/-- The steps of a text that is sent in full. -/
def textSteps (c : Config) (text : List Byte) : Nat := (text.map fun b => (eventsOf c (.data b)).length + 2).sum

/-- The transactions of a text. -/
def textXfers (c : Config) (text : List Byte) : Nat := (text.map fun b => xferCount (eventsOf c (.data b))).sum

/-- The state `t` after PRINT sent all of `text` from the state `s` (R94, R97). -/
structure SentInFull (text : List Byte) (later : List TransportAnswer) (s t : State) : Prop where
  cfg : t.cfg = s.cfg
  phase : t.phase = .idle
  ctrl : t.ctrl = s.ctrl
  requests : t.requests = s.requests
  answers : t.answers = later
  resets : t.resets = s.resets.drop (textSteps s.cfg text)
  log : t.log = s.log ++ text.flatMap (codeLog s.cfg)
  latched : t.latched = s.latched ++ text.flatMap (byteLatches true)

/-- PRINT goes on with the rest of a text once the codes before were sent in full (R94, R97). -/
theorem printText_append (text : List Byte) : ∀ {s : State} {later : List TransportAnswer}, s.cfg.wf = true →
    s.phase = .idle → NoReset (textSteps s.cfg text) s →
    s.answers = List.replicate (textXfers s.cfg text) .ok ++ later →
    ∃ t, (∀ rest, printText (text ++ rest) s = printText rest t) ∧ SentInFull text later s t := by
  induction text with
  | nil => exact fun {s later} _ hp _ ha => ⟨s, fun _ => rfl, rfl, hp, rfl, rfl, ha, rfl, by simp, by simp⟩
  | cons b text ih =>
    intro s later hw hp hn ha
    have hsteps : textSteps s.cfg (b :: text) = (eventsOf s.cfg (.data b)).length + 2 + textSteps s.cfg text := rfl
    have hxfers : textXfers s.cfg (b :: text) = xferCount (eventsOf s.cfg (.data b)) + textXfers s.cfg text := rfl
    rw [hxfers, List.replicate_add, List.append_assoc] at ha
    rw [hsteps] at hn
    have hfirst := issueRequest_ok hw hp (noReset_mono hn (Nat.le_add_right _ _)) ha
    obtain ⟨t, hprint, hsent⟩ :=
      ih (s := afterRequest (.data b) (List.replicate (textXfers s.cfg text) .ok ++ later) s) hw hp
        (noReset_drop hn rfl) rfl
    refine ⟨t, fun rest => ?_, hsent.cfg, hsent.phase, hsent.ctrl, hsent.requests, hsent.answers, ?_, ?_, ?_⟩
    · rw [← hprint]
      simp [printText, hfirst]
    · rw [hsent.resets, hsteps]
      simp [afterRequest]
    · rw [hsent.log]
      simp [afterRequest, codeLog]
    · rw [hsent.latched]
      simp [afterRequest, operationLatches]

/-- The bytes that PRINT of a text delivers (R97). -/
theorem deliveredSeen_textLog (c : Config) (text : List Byte) :
    deliveredSeen (text.flatMap (codeLog c)) = text.flatMap fun b => enc c b true := by
  induction text with
  | nil => rfl
  | cons b text ih => rw [List.flatMap_cons, deliveredSeen_append, deliveredSeen_codeLog, ih, List.flatMap_cons]

/-- PRINT of a text has an `OK` for each code (R94). -/
theorem responsesSeen_textLog (c : Config) (text : List Byte) :
    responsesSeen (text.flatMap (codeLog c)) = List.replicate text.length .ok := by
  induction text with
  | nil => rfl
  | cons b text ih => rw [List.flatMap_cons, responsesSeen_append, responsesSeen_codeLog, ih]; rfl

/-- Settles O58: the whole text is sent in full. -/
theorem printSendsEachCodeInOrder : Obligations.PrintSendsEachCodeInOrder := by
  unfold Obligations.PrintSendsEachCodeInOrder
  intro text s later hw hp hn ha
  obtain ⟨t, hprint, hsent⟩ := printText_append text hw hp hn ha
  refine ⟨t, ?_, hsent.log, ?_, hsent.latched, hsent.phase, hsent.cfg, hsent.ctrl, hsent.requests,
    hsent.answers, hsent.resets⟩
  · simpa [printText] using hprint []
  · rw [hsent.log, deliveredSeen_append, deliveredSeen_textLog]

/-! ### The first code that fails -/

/-- A byte's frames go out in transactions only (R63). -/
theorem isXfer_of_mem_groupFrames {g : Grouping} {f : List Byte} {kind : ByteKind} {e : Event}
    (h : e ∈ groupFrames g f kind) : isXfer e = true := by
  have hpairs : e ∈ twoPairs f → isXfer e = true := by
    rw [twoPairs, List.mem_pair]
    rintro (rfl | rfl) <;> rfl
  have hwhole : e ∈ [Event.xfer f] → isXfer e = true := fun h => List.mem_singleton.mp h ▸ rfl
  cases g with
  | source =>
    cases kind with
    | command => exact hpairs h
    | character => exact hwhole h
  | perNibble => exact hpairs h
  | perByteOp => exact hwhole h
  | perFrame =>
    obtain ⟨x, -, rfl⟩ := List.mem_map.mp h
    rfl

/-- Each event of a character is a call to the transport (R76, R77). -/
theorem xferCount_take_data {c : Config} {b : Byte} {k : Nat} (hk : k ≤ (eventsOf c (.data b)).length) :
    xferCount ((eventsOf c (.data b)).take k) = k := by
  have hall : ∀ e ∈ (eventsOf c (.data b)).take k, isXfer e = true := fun e he =>
    isXfer_of_mem_groupFrames (List.mem_of_mem_take he)
  rw [xferCount, List.countP_eq_length.mpr hall, List.length_take_of_le hk]

/-- The bytes of the events before `k` and a leading part of event `k` are a leading part of the character's frames
(R118). -/
theorem sentPart_prefix_enc {c : Config} {b : Byte} {k : Nat} {bs : List Byte}
    (he : (eventsOf c (.data b))[k]? = some (.xfer bs)) (j : Nat) :
    bytesOf ((eventsOf c (.data b)).take k) ++ bs.take j <+: enc c b true := by
  have henc : bytesOf (eventsOf c (.data b)) = enc c b true := bytesOf_eventsData c b
  have hsucc : bytesOf ((eventsOf c (.data b)).take (k + 1)) = bytesOf ((eventsOf c (.data b)).take k) ++ bs := by
    simp [List.take_add_one, he, eventBytes]
  have hsplit : enc c b true = bytesOf ((eventsOf c (.data b)).take k) ++ bs ++
      bytesOf ((eventsOf c (.data b)).drop (k + 1)) := by
    rw [← hsucc, ← bytesOf_append, List.take_append_drop, henc]
  rw [hsplit]
  exact ((List.prefix_append_right_inj _).mpr (List.take_prefix j bs)).trans (List.prefix_append _ _)

/-- Settles O59: the codes before are sent in full, and the one that fails ends PRINT. -/
theorem printStopsAtTheFirstFailure : Obligations.PrintStopsAtTheFirstFailure := by
  unfold Obligations.PrintStopsAtTheFirstFailure
  intro before after c s later k j bs hw hp hn he ha
  rw [List.replicate_add, List.append_assoc] at ha
  obtain ⟨u, hprint, hsent⟩ := printText_append before hw hp (noReset_mono hn (Nat.le_add_right _ _)) ha
  have hk : xferCount ((eventsOf s.cfg (.data c)).take k) = k :=
    xferCount_take_data (List.getElem?_eq_some_iff.mp he).1.le
  obtain ⟨t, hissue, htp, hts, htq, hta, htl⟩ := issueRequest_fails (i := .data c) (hsent.cfg ▸ hw) hsent.phase
    (noReset_drop hn hsent.resets) (by rw [hsent.cfg]; exact he) (by rw [hsent.cfg, hk]; exact hsent.answers)
  rw [hsent.cfg] at htl
  refine ⟨t, ?_, hta, htq.trans hsent.requests, htp, hts, ?_, _, sentPart_prefix_enc he j, ?_⟩
  · rw [hprint]
    simp [printText, hissue]
  · rw [htl, hsent.log]
    simp [-List.map_take, responsesSeen_textLog, responsesSeen_doneObs]
  · rw [htl, hsent.log]
    simp [-List.map_take, deliveredSeen_textLog, deliveredSeen_doneObs]

end Sys2Proof.Machine
end

section
/-!
PROOFS. INIT: its events, waits, commands and counts under each grouping, the points where the ghost `CTRL` moves, and
the refusal of waits below their minimums. Settles O33, O38, O30, O31, O32, O9 and O29.
-/

namespace Sys2Proof.Machine

/-! ### The events of a command -/

/-- A command's events are transactions (R75, R102). -/
theorem isXfer_of_mem_eventsCmd {c : Config} {b : Byte} {e : Event} (h : e ∈ eventsCmd c b) : isXfer e = true :=
  isXfer_of_mem_groupFrames h

/-- Each event of a command sends a frame (R45). -/
theorem eventBytes_length_pos_of_mem_eventsCmd {c : Config} {b : Byte} {e : Event} (h : e ∈ eventsCmd c b) :
    0 < (eventBytes e).length := by
  cases e with
  | xfer bs => exact (width_of_mem_eventsCmd h).1
  | wait us => simpa [isXfer] using isXfer_of_mem_eventsCmd h

theorem eventsCmd_ne_nil (c : Config) (b : Byte) : eventsCmd c b ≠ [] := by
  rw [← List.length_pos_iff, eventsCmd_length]
  cases c.group <;> decide

/-! ### Where the frame count reaches a command's end -/

/-- Between two events that both send a frame, the number of frames sent so far tells the position in the list. -/
theorem length_bytesOf_take_eq_iff {p q : List Event} {e f : Event} {k : Nat} (he : 0 < (eventBytes e).length)
    (hf : 0 < (eventBytes f).length) :
    (bytesOf ((p ++ e :: f :: q).take (k + 1))).length = (bytesOf (p ++ [e])).length ↔ k = p.length := by
  induction p generalizing k with
  | nil =>
    cases k with
    | zero => simp
    | succ k => simp [List.ne_nil_of_length_pos hf]
  | cons x p ih =>
    cases k with
    | zero => simp [List.ne_nil_of_length_pos he]
    | succ k => simpa [Nat.add_assoc] using ih (k := k)

/-- Between two commands, the number of frames sent so far tells that the first has just ended. -/
theorem length_bytesOf_take_commands_eq_iff {c : Config} {p q : List Event} {b b' : Byte} {k : Nat} :
    (bytesOf ((p ++ eventsCmd c b ++ (eventsCmd c b' ++ q)).take (k + 1))).length =
        (bytesOf (p ++ eventsCmd c b)).length ↔
      k = (p ++ eventsCmd c b).length - 1 := by
  obtain ⟨es, e, hes⟩ := (List.eq_nil_or_concat (eventsCmd c b)).resolve_left (eventsCmd_ne_nil c b)
  obtain ⟨f, fs, hfs⟩ := List.exists_cons_of_ne_nil (eventsCmd_ne_nil c b')
  have he : 0 < (eventBytes e).length := eventBytes_length_pos_of_mem_eventsCmd (c := c) (b := b) (by simp [hes])
  have hf : 0 < (eventBytes f).length := eventBytes_length_pos_of_mem_eventsCmd (c := c) (b := b') (by simp [hfs])
  rw [hes, hfs]
  simpa using length_bytesOf_take_eq_iff (p := p ++ es) (q := fs ++ q) (k := k) he hf

/-- Where the steps `n` and `n + 1` of INIT are both commands, only the last event of step `n` brings the number of
frames to that of the steps `0 .. n` (R108). -/
theorem length_bytesOf_take_eventsInit_eq_iff {c : Config} {n k : Nat} {b b' : Byte}
    (hn : (initSteps c)[n]? = some (.command b)) (hn' : (initSteps c)[n + 1]? = some (.command b')) :
    (bytesOf ((eventsInit c).take (k + 1))).length =
        (bytesOf (((initSteps c).take (n + 1)).flatMap (initStepEvents c))).length ↔
      k = initLastEvent c n := by
  have hdone : ((initSteps c).take (n + 1)).flatMap (initStepEvents c) =
      ((initSteps c).take n).flatMap (initStepEvents c) ++ eventsCmd c b := by
    simp [List.take_add_one, hn, initStepEvents]
  have hrest : ((initSteps c).drop (n + 1)).flatMap (initStepEvents c) =
      eventsCmd c b' ++ ((initSteps c).drop (n + 2)).flatMap (initStepEvents c) := by
    obtain ⟨hlt, hget⟩ := List.getElem?_eq_some_iff.mp hn'
    rw [List.drop_eq_getElem_cons hlt, hget, List.flatMap_cons, initStepEvents]
  have hsplit : eventsInit c = ((initSteps c).take (n + 1)).flatMap (initStepEvents c) ++
      ((initSteps c).drop (n + 1)).flatMap (initStepEvents c) := by
    rw [← List.flatMap_append, List.take_append_drop, eventsInit]
  rw [hsplit, hrest, initLastEvent, hdone]
  exact length_bytesOf_take_commands_eq_iff

/-- INIT's points of R108 by the number of frames sent: 12 after the third 0x03, 16 after 0x02, 28 after 0x06. -/
theorem frames_eq_iff_initLastEvent (c : Config) (k : Nat) :
    ((bytesOf ((eventsOf c .init).take (k + 1))).length = 12 ↔ k = initLastEvent c 5) ∧
      ((bytesOf ((eventsOf c .init).take (k + 1))).length = 16 ↔ k = initLastEvent c 6) ∧
      ((bytesOf ((eventsOf c .init).take (k + 1))).length = 28 ↔ k = initLastEvent c 9) := by
  have h5 := length_bytesOf_take_eventsInit_eq_iff (c := c) (n := 5) (k := k) rfl rfl
  have h6 := length_bytesOf_take_eventsInit_eq_iff (c := c) (n := 6) (k := k) rfl rfl
  have h9 := length_bytesOf_take_eventsInit_eq_iff (c := c) (n := 9) (k := k) rfl rfl
  simp only [initSteps, List.take, List.flatMap_cons, List.flatMap_nil, initStepEvents, bytesOf_append, bytesOf_cons,
    bytesOf_nil, bytesOf_eventsCmd, eventBytes, List.length_append, enc_length, List.length_nil] at h5 h6 h9
  exact ⟨h5, h6, h9⟩

/-! ### The ghost `CTRL` -/

/-- What INIT's event `k` makes of `CTRL`, by the number of frames sent when it completes (R108). -/
theorem getD_markAt_init (c : Config) (k : Nat) (x : Ctrl) :
    ((operationOf c .init).markAt k).getD x =
      if k + 1 = (eventsOf c .init).length then .clearedReady
      else if (bytesOf ((eventsOf c .init).take (k + 1))).length = 12 then .eightBitProbed
      else if (bytesOf ((eventsOf c .init).take (k + 1))).length = 16 then .fourBitCommitted
      else if (bytesOf ((eventsOf c .init).take (k + 1))).length = 28 then .configured
      else x := by
  by_cases hlast : k + 1 = (eventsOf c .init).length
  · rw [if_pos hlast, markAt_init_eq_clearedReady.mpr hlast, Option.getD_some]
  · obtain ⟨h12, h16, h28⟩ := frames_eq_iff_initLastEvent c k
    have hk : k ≠ initLastEvent c 11 := by
      have hlen : (eventsOf c .init).length = 8 * cmdEventCount c.group + 4 := eventsInit_length c
      obtain ⟨-, -, -, h11⟩ := initLastEvent_values c
      omega
    have hmark : (operationOf c .init).markAt k = _ := markAt_init c k
    rw [hmark, if_neg hlast, if_neg hk]
    simp only [h12, h16, h28]
    split_ifs <;> rfl

/-- Settles O33: an event that completes moves `CTRL` as its mark says, and a failed transaction makes it unknown. -/
theorem ctrlMovesAtInitsPoints : Obligations.CtrlMovesAtInitsPoints := by
  unfold Obligations.CtrlMovesAtInitsPoints
  refine ⟨fun s t hp h => ?_, fun s t k hp hk hlt h => ?_⟩
  · rw [exec_eq, runOperation_idle hp] at h
    obtain rfl := Host.Outcome.next.inj h
    rfl
  · subst hk
    rw [exec_eq] at h
    obtain ⟨hi, -⟩ | ⟨-, he, -⟩ | ⟨us, -, -, rfl⟩ | ⟨bs, -, -, ⟨-, rfl⟩ | ⟨j, -, rfl⟩⟩ := runOperation_cases h
    · simp [hi] at hp
    · exact absurd he hlt.ne
    · simp [hp, getD_markAt_init]
    · simp [hp, getD_markAt_init]
    · simp [errorCtrl, errorStatus]

/-! ### The events, one by one -/

/-- Settles O38: each event completes at its place in the list, and after the last the sequencer responds. -/
theorem initPerformsItsEventsInOrder : Obligations.InitPerformsItsEventsInOrder := by
  unfold Obligations.InitPerformsItsEventsInOrder
  intro s hw hp
  refine ⟨fun us he => ?_, fun bs he ha => ?_, lastEventIsFollowedByOk .init s hp⟩
  · rw [exec_eq, runOperation_wait hp he]
    exact ⟨_, rfl⟩
  · obtain ⟨x, hx, -⟩ := completedTransactionAdvancesTheSequencer .init s bs hp he ha
    exact ⟨x, wf_addr7 hw ▸ hx⟩

/-! ### The waits and the commands -/

/-- Settles O30: INIT's list written out; a command's events are transactions only. -/
theorem initWaitsStandWhereMandated : Obligations.InitWaitsStandWhereMandated := by
  unfold Obligations.InitWaitsStandWhereMandated
  intro c hw C
  obtain ⟨hpower, hg1, hg2, hclr⟩ := wf_waits hw
  refine ⟨?_, hpower, hg1, hg2, hclr, fun b us hmem => ?_⟩
  · change eventsInit c = _
    simp only [eventsInit_eq, List.append_assoc, List.cons_append, List.nil_append]
    rfl
  · simpa [isXfer] using isXfer_of_mem_eventsCmd hmem

theorem filter_isXfer_eventsCmd (c : Config) (b : Byte) : (eventsCmd c b).filter isXfer = eventsCmd c b :=
  List.filter_eq_self.mpr fun _ => isXfer_of_mem_eventsCmd

/-- The transactions of INIT are those of its commands (R106). -/
theorem filter_isXfer_eventsInit (c : Config) :
    (eventsInit c).filter isXfer = initCommands.flatMap (eventsCmd c) := by
  simp [eventsInit_eq, filter_isXfer_eventsCmd, isXfer, initCommands]

/-- Settles O32: the waits fall away, and a command's frames have RS = 0. -/
theorem initSendsItsEightCommandsInOrder : Obligations.InitSendsItsEightCommandsInOrder := by
  unfold Obligations.InitSendsItsEightCommandsInOrder
  exact fun c hw => ⟨filter_isXfer_eventsInit c, rsLine_of_latches hw fun _ => operationLatches_rs⟩

/-! ### The counts -/

theorem xferCount_eventsInit (c : Config) : xferCount (eventsInit c) = 8 * cmdEventCount c.group := by
  rw [xferCount, List.countP_eq_length_filter, filter_isXfer_eventsInit]
  simp only [initCommands, List.flatMap_cons, List.flatMap_nil, List.length_append, List.length_nil, eventsCmd_length]
  omega

/-- Every grouping has INIT's four waits (R107). -/
theorem waitCount_eventsInit (c : Config) : (eventsInit c).countP (fun e => !isXfer e) = 4 := by
  have hsum := List.length_eq_countP_add_countP isXfer (l := eventsInit c)
  have hx := xferCount_eventsInit c
  have hl := eventsInit_length c
  simp only [Bool.not_eq_true, Bool.decide_eq_false] at hsum
  rw [xferCount] at hx
  omega

/-- Settles O31: 8 commands of 4 frames each, cut into as many transactions as the grouping says, and 4 waits. -/
theorem initCounts : Obligations.InitCounts := by
  unfold Obligations.InitCounts
  intro c
  have hframes : (bytesOf (eventsInit c)).length = 32 := by
    rw [bytesOf_eventsInit]
    rfl
  have hcounts {g : Grouping} (hg : c.group = g) : xferCount (eventsInit c) = 8 * cmdEventCount g ∧
      (eventsInit c).length = 8 * cmdEventCount g + 4 :=
    hg ▸ ⟨xferCount_eventsInit c, eventsInit_length c⟩
  exact ⟨hframes, waitCount_eventsInit c, hcounts, hcounts, hcounts, hcounts⟩

/-! ### The minimums and the defaults -/

/-- Settles O9: a well-formed configuration meets all four minimums. -/
theorem configurationBelowMinimumIsRefused : Obligations.ConfigurationBelowMinimumIsRefused := by
  unfold Obligations.ConfigurationBelowMinimumIsRefused
  intro s hlow
  refine step_illFormed (Bool.eq_false_iff.mpr fun hw => ?_)
  obtain ⟨hpower, hg1, hg2, hclr⟩ := wf_waits hw
  omega

/-- The two transactions of a command under the default parameters (R75, R79). -/
theorem eventsCmd_default (n : Nat) (b : Byte) :
    eventsCmd { cols := n } b =
      [.xfer [(b &&& 0xF0#8) ||| 0x0C#8, (b &&& 0xF0#8) ||| 0x08#8],
        .xfer [((b <<< 4) &&& 0xF0#8) ||| 0x0C#8, ((b <<< 4) &&& 0xF0#8) ||| 0x08#8]] := by
  obtain ⟨-, hctl⟩ := controlNibblePlacesFourLines
  obtain ⟨hhigh, hlow, -, -⟩ := hctl n
  rw [eventsCmd_source rfl, strobe_hiNibble, strobe_loNibble, hhigh, hlow]

/-- Settles O29: INIT's list with each command's transactions written out; the frames are the bytes of that list. -/
theorem initEventsUnderDefaults : Obligations.InitEventsUnderDefaults := by
  unfold Obligations.InitEventsUnderDefaults
  intro n
  rw [and_iff_left_of_imp fun h => by rw [h]; rfl]
  change eventsInit { cols := n } = _
  rw [eventsInit_eq]
  simp only [eventsCmd_default]
  rfl

end Sys2Proof.Machine
end

section
/-!
PROOFS. What ends or stops a request: a wait that completes, a transport call that fails or never returns, an illegal word;
and an idle block that nothing is presented to. Settles O4, O40, O41, O47, O7, O8 and O42.
-/

namespace Sys2Proof.Machine

/-! ### One event of a request -/

/-- Settles O40: the wait's event completes, and only INIT has an event that moves `CTRL`. -/
theorem waitCompletesAndAdvances : Obligations.WaitCompletesAndAdvances := by
  unfold Obligations.WaitCompletesAndAdvances
  intro i s us hp he
  refine ⟨((operationOf s.cfg i).markAt s.eidx.toNat).getD s.ctrl, ?_, fun hi => getD_markAt_of_ne_init hi ..⟩
  rw [exec_eq, runOperation_wait hp he]
  rfl

/-- A failed call that shows itself as `o` and of which the expander has received `sent`, field by field (R115, R118,
R126). -/
theorem failedXfer_eq (o : Obs) (sent : List Byte) (s : State) :
    raiseError .transportFailure (observe o (deliver sent (takeAnswer s))) = { s with
      phase := .idle, status := .failTransport, ctrl := .poweredOnUnknown
      port := portAfter sent s.port, latched := (deliver sent s).latched
      log := s.log ++ [o, .response .failTransport]
      answers := s.answers.tail, calls := s.calls + 1 } := by
  have hl : (deliver sent (takeAnswer s)).latched = (deliver sent s).latched := deliver_latched_congr sent rfl rfl rfl
  rw [deliver_eq_latched sent (takeAnswer s), hl]
  simp [raiseError, respond, observe, takeAnswer, errorStatus, errorCtrl]

/-- Settles O41: the call fails, and the error ends the request. -/
theorem transportFailureEndsTheRequest : Obligations.TransportFailureEndsTheRequest := by
  unfold Obligations.TransportFailureEndsTheRequest
  intro i s bs j hp he ha
  rw [exec_eq, runOperation_xfer hp he, performXfer_fail ha, failedXfer_eq]
  rfl

/-- Settles O42: the call at `EIDX` never returns. -/
theorem hungTransportIsStuck : Obligations.HungTransportIsStuck := by
  unfold Obligations.HungTransportIsStuck
  intro i s bs hp he ha
  rw [exec_eq, runOperation_xfer hp he, performXfer_never ha]

/-! ### An idle block -/

/-- Settles O7: with no word presented the sequencer stays as it is. -/
theorem idleBlockKeepsItsState : Obligations.IdleBlockKeepsItsState := by
  unfold Obligations.IdleBlockKeepsItsState
  intro s hw hr hp hq
  rw [step_sequencer hw hr]
  simp [sequencerStep, takeReset, hp, hq]

/-- Settles O8: the word is latched, and the error answered. -/
theorem illegalWordIsAnsweredFailIllegal : Obligations.IllegalWordIsAnsweredFailIllegal := by
  unfold Obligations.IllegalWordIsAnsweredFailIllegal
  intro s w rest e hw hr hp hq hd
  rw [step_refuses hw hr hp hq hd]
  simp [raiseError, respond, observe, latchRequest, takeReset, errorStatus, errorCtrl, hp]

/-! ### Where a step stops -/

/-- An operation hangs only at a transaction whose call never returns (R119). -/
theorem xfer_of_runOperation_hung {op : Operation} {s : State}
    (h : runOperation op s = .fault .transportNeverReturns) :
    (∃ bs, op.events[s.eidx.toNat]? = some (.xfer bs)) ∧ nextAnswer s = .never := by
  cases hp : s.phase with
  | idle =>
    rw [runOperation_idle hp] at h
    cases h
  | busy =>
    obtain he | he | he := Nat.lt_trichotomy s.eidx.toNat op.events.length
    · have hg := List.getElem?_eq_getElem he
      generalize op.events[s.eidx.toNat] = e at hg
      cases e with
      | wait us =>
        rw [runOperation_wait hp hg] at h
        cases h
      | xfer bs =>
        rw [runOperation_xfer hp hg] at h
        obtain ⟨-, hx⟩ | ⟨j, -, hx⟩ | ⟨ha, -⟩ := performXfer_cases (op.markAt s.eidx.toNat) bs s
        · rw [hx] at h
          cases h
        · rw [hx] at h
          cases h
        · exact ⟨⟨bs, hg⟩, ha⟩
    · rw [runOperation_complete hp he] at h
      cases h
    · rw [runOperation_outOfRange hp he] at h
      cases h

/-- An idle block never stops: it is reset, stays as it is, or takes the presented word (R25, R117, R135, R136). -/
theorem step_idle_next {s : State} (hw : s.cfg.wf = true) (hp : s.phase = .idle) : ∃ t, step s = .next t := by
  cases hr : resetLow s with
  | false =>
    obtain ⟨cut, hc⟩ := resetLow_eq_false_iff.mp hr
    exact ⟨_, step_reset hw hc⟩
  | true =>
    cases hq : s.requests with
    | nil => exact ⟨_, idleBlockKeepsItsState s hw hr hp hq⟩
    | cons w rest =>
      obtain ⟨t, ht, -⟩ := step_takes hw hr hp hq
      exact ⟨t, ht⟩

/-- A BUSY block hangs only with the reset line low, at a transaction whose call never returns (R119, R136). -/
theorem xfer_of_step_hung {s : State} {i : Instr} (hw : s.cfg.wf = true) (hp : s.phase = .busy)
    (hd : decode s.req = .op i) (h : step s = .fault .transportNeverReturns) :
    resetLow s = true ∧ (∃ bs, currentEvent s = some (.xfer bs)) ∧ nextAnswer s = .never := by
  cases hr : resetLow s with
  | false =>
    obtain ⟨cut, hc⟩ := resetLow_eq_false_iff.mp hr
    rw [step_reset hw hc] at h
    cases h
  | true =>
    rw [step_sequencer hw hr, sequencerStep_busy (s := takeReset s) hp hd, exec_eq] at h
    obtain ⟨⟨bs, he⟩, ha⟩ := xfer_of_runOperation_hung h
    have hcur : currentEvent s = (eventsOf s.cfg i)[s.eidx.toNat]? := by simp [currentEvent, hp, hd]
    exact ⟨rfl, ⟨bs, hcur.trans he⟩, ha⟩

/-- Settles O4: an idle block always steps on, and a BUSY one but in a call that never returns. -/
theorem stepStopsOnlyWhereTransportNeverReturns : Obligations.StepStopsOnlyWhereTransportNeverReturns := by
  unfold Obligations.StepStopsOnlyWhereTransportNeverReturns
  intro s hinv
  have hw := wf_of_inv hinv
  cases hp : s.phase with
  | idle => exact .inl (step_idle_next hw hp)
  | busy =>
    refine (step_busy_next_or_hung hinv hp).imp_right fun h => ?_
    obtain ⟨⟨-, hb⟩, -⟩ := hinv
    obtain ⟨-, i, hd, -⟩ := hb hp
    obtain ⟨hr, he, ha⟩ := xfer_of_step_hung hw hp hd h
    exact ⟨h, hr, rfl, he, ha⟩

/-! ### A whole request that fails -/

/-- Settles O47: the run through the events before the failing one, and then the failed call. -/
theorem failedRequestStopsAtItsEvent : Obligations.FailedRequestStopsAtItsEvent := by
  unfold Obligations.FailedRequestStopsAtItsEvent
  intro i s rest later k j bs hw hp hn hq he ha
  have hrun := runSteps_afterEvents hw hp hq (List.getElem?_eq_some_iff.mp he).1.le (noReset_mono hn (Nat.le_succ _)) ha
  have hlatched : (deliver (bs.take j) (takeReset (afterEvents i rest (.fail j :: later) k s))).latched =
      (deliver (bytesOf ((eventsOf s.cfg i).take k) ++ bs.take j) s).latched := by
    rw [deliver_append]
    exact deliver_latched_congr _ (by simp [afterEvents]) (by simp [afterEvents]) rfl
  rw [runSteps_snoc hrun, step_afterEvents_fails hw hn he, failedXfer_eq, hlatched]
  simp [afterEvents, takeReset, callObs, wf_addr7 hw, portAfter_append, List.tail_drop]

end Sys2Proof.Machine
end

section
/-!
PROOFS. The reset of the block. It abandons what is in flight and then clears the registers, so a step with the reset line
asserted turns on one question: whether bytes of a transaction have left the block (R136, R137). Settles O12 and O11.
-/

namespace Sys2Proof.Machine

/-- An asserted reset line is answered by the reset alone; its sample takes no part in what is abandoned (R136). -/
theorem step_reset_abandons {s : State} {cut : Nat} (hw : s.cfg.wf = true) (hr : s.resets.head? = some (some cut)) :
    step s = .next (lnsReset (abandonEvent cut (currentEvent s) (takeReset s))) :=
  step_reset hw hr

/-- Only a BUSY block has an event in progress (R20, R21). -/
theorem busy_of_currentEvent {s : State} {e : Event} (h : currentEvent s = some e) : s.phase = .busy := by
  cases hp : s.phase with
  | idle => simp [currentEvent, hp] at h
  | busy => rfl

theorem resetCtrl_eq_ite (s : State) :
    resetCtrl s = if s.phase = .busy then .poweredOnUnknown else s.ctrl := by
  cases hp : s.phase <;> simp [resetCtrl, hp]

/-! ### What is abandoned -/

/-- Nothing is in flight where no byte was delivered, and where the event in progress is no transaction (log 18). -/
theorem abandonEvent_of_noneInFlight {cut : Nat} {e : Option Event} (h : cut = 0 ∨ ∀ bs, e ≠ some (.xfer bs))
    (s : State) : abandonEvent cut e s = s := by
  obtain ha | ⟨bs, k, he, hk, -⟩ := abandonEvent_cases cut e s
  · exact ha
  · obtain hz | hx := h
    · omega
    · exact absurd he (hx bs)

/-- A transaction with a byte delivered is cut after the delivered bytes (R118, R136). -/
theorem abandonEvent_inFlight (k : Nat) (bs : List Byte) (s : State) :
    abandonEvent (k + 1) (some (.xfer bs)) s =
      observe (callObs s bs .abandoned (bs.take (k + 1))) (deliver (bs.take (k + 1)) s) := rfl

/-! ### The statements -/

/-- Settles O12: the call is cut after its delivered bytes, and the reset follows it. -/
theorem resetAbandonsTransactionInFlight : Obligations.ResetAbandonsTransactionInFlight := by
  unfold Obligations.ResetAbandonsTransactionInFlight
  intro s cut bs hw hr he
  have hp := busy_of_currentEvent he
  have hstep := step_reset_abandons hw hr
  rw [he, abandonEvent_inFlight] at hstep
  have hlatched : (deliver (bs.take (cut + 1)) (takeReset s)).latched = (deliver (bs.take (cut + 1)) s).latched :=
    deliver_latched_congr _ rfl rfl rfl
  refine ⟨_, hstep, ?_⟩
  simp [resetCtrl_eq_ite, hp, hlatched, callObs]

/-- Settles O11: nothing is abandoned, so the step is the reset of the registers. -/
theorem resetClearsTheSequencer : Obligations.ResetClearsTheSequencer := by
  unfold Obligations.ResetClearsTheSequencer
  intro s cut hw hr hnone
  rw [step_reset_abandons hw hr, abandonEvent_of_noneInFlight hnone, lnsReset, resetCtrl_eq_ite]
  rfl

end Sys2Proof.Machine
end

section
/-!
PROOFS. The model refuses a configuration and nothing else: `exec` goes on or stops with a fault, and so does a step
once the configuration is well-formed (R111, log 6). Settles O10.
-/

namespace Sys2Proof.Machine

/-! ### A request is never refused -/

theorem performXfer_ne_refused (m : Option Ctrl) (bs : List Byte) (s : State) (r : Refusal) :
    performXfer m bs s ≠ .refused r := by
  obtain ⟨-, hx⟩ | ⟨j, -, hx⟩ | ⟨-, hx⟩ := performXfer_cases m bs s <;> simp [hx]

theorem runOperation_ne_refused (op : Operation) (s : State) (r : Refusal) : runOperation op s ≠ .refused r := by
  cases hp : s.phase with
  | idle => simp [runOperation_idle hp]
  | busy =>
    obtain he | he | he := Nat.lt_trichotomy s.eidx.toNat op.events.length
    · have hg := List.getElem?_eq_getElem he
      generalize op.events[s.eidx.toNat] = e at hg
      cases e with
      | wait us => simp [runOperation_wait hp hg]
      | xfer bs =>
        rw [runOperation_xfer hp hg]
        exact performXfer_ne_refused _ _ _ _
    · simp [runOperation_complete hp he]
    · simp [runOperation_outOfRange hp he]

theorem exec_ne_refused (i : Instr) (s : State) (r : Refusal) : exec i s ≠ .refused r := by
  rw [exec_eq]
  exact runOperation_ne_refused _ _ _

/-! ### A step under a well-formed configuration -/

/-- A BUSY block whose `REQ` holds an illegal word stops with a fault, which is no refusal (R25). -/
theorem sequencerStep_busyIllegal {s : State} {e : DecodeError} (hp : s.phase = .busy)
    (hd : decode s.req = .illegal e) : sequencerStep s = .fault .busyWithIllegalRequest := by
  simp [sequencerStep, hp, hd]

/-- A BUSY block is reset, runs its request, or stops with a fault (R25, R136). -/
theorem step_busy_ne_refused {s : State} (hw : s.cfg.wf = true) (hp : s.phase = .busy) (r : Refusal) :
    step s ≠ .refused r := by
  cases hr : resetLow s with
  | false =>
    obtain ⟨cut, hc⟩ := resetLow_eq_false_iff.mp hr
    simp [step_reset hw hc]
  | true =>
    rw [step_sequencer hw hr]
    cases hd : decode s.req with
    | op i =>
      rw [sequencerStep_busy (s := takeReset s) hp hd]
      exact exec_ne_refused _ _ _
    | illegal e => simp [sequencerStep_busyIllegal (s := takeReset s) hp hd]

/-- Settles O10: under a well-formed configuration an idle block steps on, and a BUSY one does not refuse. -/
theorem onlyAnIllFormedConfigurationIsRefused : Obligations.OnlyAnIllFormedConfigurationIsRefused := by
  unfold Obligations.OnlyAnIllFormedConfigurationIsRefused
  refine ⟨fun s r h => Bool.eq_false_iff.mpr fun hw => ?_, exec_ne_refused⟩
  cases hp : s.phase with
  | idle =>
    obtain ⟨t, ht⟩ := step_idle_next hw hp
    rw [ht] at h
    cases h
  | busy => exact step_busy_ne_refused hw hp r h

end Sys2Proof.Machine
end

section
/-!
PROOFS. The least durations. Under the source's grouping and a 100 kHz clock a command or a character takes the wire
time of its transactions, and INIT that of its eight commands beside its four waits (R150 to R152, log 15). Settles O60.
-/

namespace Sys2Proof.Machine

section
variable {c : Config}

/-- A bit period at 100 kHz is 10 us (R150). -/
theorem eventMicros_xfer (hs : c.sclHz = 100000) (bs : List Byte) :
    eventMicros c (.xfer bs) = 90 * (bs.length + 1) := by
  simp only [eventMicros, bitPeriods, hs]
  omega

variable (hg : c.group = .source) (hs : c.sclHz = 100000)
include hg hs

/-- Two transactions of two frames (R151). -/
theorem sum_eventMicros_eventsCmd (b : Byte) : ((eventsCmd c b).map (eventMicros c)).sum = 540 := by
  simp [eventsCmd_source hg, eventMicros_xfer hs, strobe]

theorem operationMicros_cmd (b : Byte) : operationMicros c (.cmd b) = 540 := sum_eventMicros_eventsCmd hg hs b

/-- SETCUR takes the time of its command (R89). -/
theorem operationMicros_setcur (row : BitVec 1) (col : Byte) : operationMicros c (.setcur row col) = 540 := by
  rw [operationMicros, eventsOf_setcur]
  exact operationMicros_cmd hg hs _

/-- One transaction of four frames (R151). -/
theorem operationMicros_data (b : Byte) : operationMicros c (.data b) = 450 := by
  change ((eventsData c b).map (eventMicros c)).sum = 450
  simp [eventsData_source hg, eventMicros_xfer hs]

/-- Eight commands, and the waits' own durations (R152). -/
theorem operationMicros_init : operationMicros c .init = c.tPowerUs + c.tG1Us + c.tG2Us + c.tClrUs + 8 * 540 := by
  change ((eventsInit c).map (eventMicros c)).sum = _
  simp only [eventsInit_eq, List.map_cons, List.map_append, List.map_nil, List.sum_cons, List.sum_append, List.sum_nil,
    sum_eventMicros_eventsCmd hg hs, eventMicros]
  omega

end

/-- Settles O60: the default grouping and clock are those of the durations above; INIT adds the default waits. -/
theorem leastDurationsUnderDefaults : Obligations.LeastDurationsUnderDefaults := by
  unfold Obligations.LeastDurationsUnderDefaults
  intro n b r
  have hinit : operationMicros { cols := n } .init = 50000 + 5000 + 1000 + 5000 + 8 * 540 :=
    operationMicros_init rfl rfl
  exact ⟨operationMicros_cmd rfl rfl b, operationMicros_setcur rfl rfl r b, operationMicros_data rfl rfl b,
    hinit⟩

end Sys2Proof.Machine
end
